-- ==== Sys2Proof/Word.lean ====
section
/-! DEFINITION. The bit-vector types of the Fixnum FXU that do not depend on the block's width (spec 30_encoding.md R70, R71). -/

namespace Sys2Proof

/-- A command word `CW`, 32 bits (R70). -/
abbrev CmdWord := BitVec 32

/-- The immediate field `imm = CW[15:0]`, always read unsigned (R71, R81). -/
abbrev Imm := BitVec 16

end Sys2Proof
end

