-- ==== Sys2Proof/Syntax.lean ====
section
/-! DEFINITION. The abstract syntax of the 29 commands: one constructor per row of spec/opcode_table.json, the operands in the
assembler's order (spec 30_encoding.md R86, R88). -/

namespace Sys2Proof

/-- The eight value registers `x0` to `x7` (10_state.md R20); none is hard-wired and none has an alias (R21). -/
inductive Reg where
  | x0 | x1 | x2 | x3 | x4 | x5 | x6 | x7
deriving DecidableEq, Repr

/-- A command. `rd` is the destination, `rs1` and `rs2` the sources, `rd2` the second destination of `DIVMOD` (R71). -/
inductive Instr where
  /-- `CLR rd` (40_storage_access.md R101). -/
  | clr (rd : Reg)
  /-- `MOV rd, rs1` (R102). -/
  | mov (rd rs1 : Reg)
  /-- `GETBYTE rs1, #idx` (R103). -/
  | getbyte (rs1 : Reg) (idx : Imm)
  /-- `SETBYTE rd, #idx ; din=d` (R104). -/
  | setbyte (rd : Reg) (idx : Imm)
  /-- `GETBIT rs1, #idx` (R105). -/
  | getbit (rs1 : Reg) (idx : Imm)
  /-- `SETBIT rd, #idx ; din=b` (R106). -/
  | setbit (rd : Reg) (idx : Imm)
  /-- `LDLOW rd` (R107). -/
  | ldlow (rd : Reg)
  /-- `LDMAX rd` (R108). -/
  | ldmax (rd : Reg)
  /-- `TST rs1` (41_sign_magnitude.md R121). -/
  | tst (rs1 : Reg)
  /-- `NEG rd, rs1` (R122). -/
  | neg (rd rs1 : Reg)
  /-- `SEXT rd, rs1, #f` (R123). -/
  | sext (rd rs1 : Reg) (f : Imm)
  /-- `FSB rs1` (R124). -/
  | fsb (rs1 : Reg)
  /-- `ADD rd, rs1, rs2` (42_add_sub.md R142). -/
  | add (rd rs1 rs2 : Reg)
  /-- `SUB rd, rs1, rs2` (R143). -/
  | sub (rd rs1 rs2 : Reg)
  /-- `INC rd, rs1` (R144). -/
  | inc (rd rs1 : Reg)
  /-- `DEC rd, rs1` (R145). -/
  | dec (rd rs1 : Reg)
  /-- `MUL rd, rs1, rs2` (43_multiply.md R162). -/
  | mul (rd rs1 rs2 : Reg)
  /-- `DIV rd, rs1, rs2` (44_divide.md R175). -/
  | div (rd rs1 rs2 : Reg)
  /-- `MOD rd, rs1, rs2` (R176). -/
  | mod (rd rs1 rs2 : Reg)
  /-- `DIVMOD rd, rd2, rs1, rs2`: the quotient to `rd`, the remainder to `rd2` (R177). -/
  | divmod (rd rd2 rs1 rs2 : Reg)
  /-- `AND rd, rs1, rs2` (45_bitwise_shift.md R191). -/
  | and (rd rs1 rs2 : Reg)
  /-- `OR rd, rs1, rs2` (R192). -/
  | or (rd rs1 rs2 : Reg)
  /-- `XOR rd, rs1, rs2` (R193). -/
  | xor (rd rs1 rs2 : Reg)
  /-- `SHL rd, rs1, #k` (R195). -/
  | shl (rd rs1 : Reg) (k : Imm)
  /-- `SHR rd, rs1, #k` (R196). -/
  | shr (rd rs1 : Reg) (k : Imm)
  /-- `CMP rs1, rs2` (46_compare.md R212). -/
  | cmp (rs1 rs2 : Reg)
  /-- `CASTIN rd, #S ; din=v` (47_width_cast.md R222). -/
  | castin (rd : Reg) (width : Imm)
  /-- `CASTOUT rs1, #T` (R223). -/
  | castout (rs1 : Reg) (width : Imm)
  /-- `LDNC rd, #S ; din=v` (R224). -/
  | ldnc (rd : Reg) (width : Imm)
deriving DecidableEq, Repr

end Sys2Proof
end

