-- ==== Sys2Proof/WellFormed.lean ====
section
/-! DEFINITION. The three checks made on a word that matched a row of the opcode map (spec 30_encoding.md R84). A command that
fails its check is `ILLEGAL`; the meanings make the same checks (log 5). -/

namespace Sys2Proof

/-- A legal cast width: `1 .. WBUS` (R81, R84 (b)). -/
def castWidthLegal (wbus : Nat) (width : Imm) : Bool :=
  decide (1 ≤ width.toNat) && decide (width.toNat ≤ wbus)

/-- A native width: 8, 16, 32 or 64 (R81, R84 (c)). -/
def nativeWidth (width : Imm) : Bool :=
  width == 8#16 || width == 16#16 || width == 32#16 || width == 64#16

/-- The well-formed commands of a block whose data bus has `wbus` bits (R84). -/
def Instr.wellFormed (wbus : Nat) : Instr → Bool
  | .divmod rd rd2 _ _ => rd != rd2
  | .castin _ width => castWidthLegal wbus width
  | .castout _ width => castWidthLegal wbus width
  | .ldnc _ width => nativeWidth width
  | .clr _ | .mov _ _ | .getbyte _ _ | .setbyte _ _ | .getbit _ _ | .setbit _ _ | .ldlow _ | .ldmax _ => true
  | .tst _ | .neg _ _ | .sext _ _ _ | .fsb _ => true
  | .add _ _ _ | .sub _ _ _ | .inc _ _ | .dec _ _ | .mul _ _ _ | .div _ _ _ | .mod _ _ _ => true
  | .and _ _ _ | .or _ _ _ | .xor _ _ _ | .shl _ _ _ | .shr _ _ _ | .cmp _ _ => true

end Sys2Proof
end

