-- ==== Sys2Proof/Decode.lean ====
section
/-! DEFINITION. The decoder of command words, total on all `2^32` words, and the encoder, both from spec 30_encoding.md R71 to R80
(the nine formats) and R83, R88 (the opcode map). -/

namespace Sys2Proof

/-- Why a word is no command. The machine answers `ILLEGAL` for either reason (R83). -/
inductive Rejected where
  /-- No row of R88 has this opcode. -/
  | unassignedOpcode (op : BitVec 6)
  /-- The opcode is assigned, and a must-be-zero bit of its format is 1. -/
  | mustBeZero (op : BitVec 6)
deriving DecidableEq, Repr

/-- The 3-bit index of a register (R71). -/
def Reg.bits : Reg → BitVec 3
  | .x0 => 0#3 | .x1 => 1#3 | .x2 => 2#3 | .x3 => 3#3
  | .x4 => 4#3 | .x5 => 5#3 | .x6 => 6#3 | .x7 => 7#3

/-- The register a 3-bit index names; every index names one (R71). -/
def Reg.ofBits (b : BitVec 3) : Reg :=
  match b.toNat with
  | 0 => .x0 | 1 => .x1 | 2 => .x2 | 3 => .x3
  | 4 => .x4 | 5 => .x5 | 6 => .x6 | _ => .x7

/-! The fields of `CW` (R71). -/

/-- `op = CW[31:26]`. -/
def opField (w : CmdWord) : BitVec 6 := w.extractLsb' 26 6
/-- `rd = CW[25:23]`. -/
def rdField (w : CmdWord) : BitVec 3 := w.extractLsb' 23 3
/-- `rs1 = CW[22:20]`. -/
def rs1Field (w : CmdWord) : BitVec 3 := w.extractLsb' 20 3
/-- `rs2 = CW[19:17]`. -/
def rs2Field (w : CmdWord) : BitVec 3 := w.extractLsb' 17 3
/-- `z = CW[16]`. -/
def zField (w : CmdWord) : BitVec 1 := w.extractLsb' 16 1
/-- `imm = CW[15:0]`. -/
def immField (w : CmdWord) : Imm := w.extractLsb' 0 16
/-- `rd2 = CW[2:0]`, `DIVMOD` only. -/
def rd2Field (w : CmdWord) : BitVec 3 := w.extractLsb' 0 3
/-- `CW[15:3]`, which `DIVMOD` requires to be zero (R75). -/
def aboveRd2Field (w : CmdWord) : BitVec 13 := w.extractLsb' 3 13

/-- The command `i` if the format's must-be-zero bits of `w` are zero, else the word is rejected (R83). -/
def ifZero (zero : Bool) (w : CmdWord) (i : Instr) : Except Rejected Instr :=
  if zero then .ok i else .error (.mustBeZero (opField w))

/-- Format `D`: destination only (R72). -/
def formatD (w : CmdWord) (mk : Reg → Instr) : Except Rejected Instr :=
  ifZero (rs1Field w == 0 && rs2Field w == 0 && zField w == 0 && immField w == 0) w
    (mk (.ofBits (rdField w)))

/-- Format `DS`: destination, one source (R73). -/
def formatDS (w : CmdWord) (mk : Reg → Reg → Instr) : Except Rejected Instr :=
  ifZero (rs2Field w == 0 && zField w == 0 && immField w == 0) w
    (mk (.ofBits (rdField w)) (.ofBits (rs1Field w)))

/-- Format `DSS`: destination, two sources (R74). -/
def formatDSS (w : CmdWord) (mk : Reg → Reg → Reg → Instr) : Except Rejected Instr :=
  ifZero (zField w == 0 && immField w == 0) w
    (mk (.ofBits (rdField w)) (.ofBits (rs1Field w)) (.ofBits (rs2Field w)))

/-- Format `DSSD`: two destinations, two sources (R75). -/
def formatDSSD (w : CmdWord) (mk : Reg → Reg → Reg → Reg → Instr) : Except Rejected Instr :=
  ifZero (zField w == 0 && aboveRd2Field w == 0) w
    (mk (.ofBits (rdField w)) (.ofBits (rd2Field w)) (.ofBits (rs1Field w)) (.ofBits (rs2Field w)))

/-- Format `DSI`: destination, one source, immediate (R76). -/
def formatDSI (w : CmdWord) (mk : Reg → Reg → Imm → Instr) : Except Rejected Instr :=
  ifZero (rs2Field w == 0 && zField w == 0) w
    (mk (.ofBits (rdField w)) (.ofBits (rs1Field w)) (immField w))

/-- Format `DI`: destination, immediate, data from `DIN` (R77). -/
def formatDI (w : CmdWord) (mk : Reg → Imm → Instr) : Except Rejected Instr :=
  ifZero (rs1Field w == 0 && rs2Field w == 0 && zField w == 0) w
    (mk (.ofBits (rdField w)) (immField w))

/-- Format `S`: one source, no destination register (R78). -/
def formatS (w : CmdWord) (mk : Reg → Instr) : Except Rejected Instr :=
  ifZero (rdField w == 0 && rs2Field w == 0 && zField w == 0 && immField w == 0) w
    (mk (.ofBits (rs1Field w)))

/-- Format `SI`: one source, immediate, result to `DOUT` (R79). -/
def formatSI (w : CmdWord) (mk : Reg → Imm → Instr) : Except Rejected Instr :=
  ifZero (rdField w == 0 && rs2Field w == 0 && zField w == 0) w
    (mk (.ofBits (rs1Field w)) (immField w))

/-- Format `SS`: two sources, no destination register (R80). -/
def formatSS (w : CmdWord) (mk : Reg → Reg → Instr) : Except Rejected Instr :=
  ifZero (rdField w == 0 && zField w == 0 && immField w == 0) w
    (mk (.ofBits (rs1Field w)) (.ofBits (rs2Field w)))

/-- The decoder (R83, R88): the opcode selects the row, the row's format checks its must-be-zero bits. The checks of R84, which
depend on `WBUS` or on the operands, are `Instr.wellFormed` and are made by the meanings (log 5). -/
def decode (w : CmdWord) : Except Rejected Instr :=
  match (opField w).toNat with
  | 0x01 => formatD w .clr
  | 0x02 => formatDS w .mov
  | 0x03 => formatSI w .getbyte
  | 0x04 => formatDI w .setbyte
  | 0x05 => formatSI w .getbit
  | 0x06 => formatDI w .setbit
  | 0x07 => formatD w .ldlow
  | 0x08 => formatD w .ldmax
  | 0x10 => formatS w .tst
  | 0x11 => formatDS w .neg
  | 0x12 => formatDSI w .sext
  | 0x13 => formatS w .fsb
  | 0x18 => formatDSS w .add
  | 0x19 => formatDSS w .sub
  | 0x1A => formatDS w .inc
  | 0x1B => formatDS w .dec
  | 0x20 => formatDSS w .mul
  | 0x24 => formatDSS w .div
  | 0x25 => formatDSS w .mod
  | 0x26 => formatDSSD w .divmod
  | 0x28 => formatDSS w .and
  | 0x29 => formatDSS w .or
  | 0x2A => formatDSS w .xor
  | 0x2B => formatDSI w .shl
  | 0x2C => formatDSI w .shr
  | 0x30 => formatSS w .cmp
  | 0x38 => formatDI w .castin
  | 0x39 => formatSI w .castout
  | 0x3A => formatDI w .ldnc
  | _ => .error (.unassignedOpcode (opField w))

/-- A word from its fields: `op rd rs1 rs2 z imm` from bit 31 down, with `z = 0` (R71, R88). -/
def pack (op : BitVec 6) (rd rs1 rs2 : BitVec 3) (imm : Imm) : CmdWord :=
  op ++ rd ++ rs1 ++ rs2 ++ 0#1 ++ imm

/-- The encoder: the word of a command, from the opcode map R88; a field the format does not use is zero (R71). -/
def encode : Instr → CmdWord
  | .clr rd => pack 0x01#6 rd.bits 0 0 0
  | .mov rd rs1 => pack 0x02#6 rd.bits rs1.bits 0 0
  | .getbyte rs1 idx => pack 0x03#6 0 rs1.bits 0 idx
  | .setbyte rd idx => pack 0x04#6 rd.bits 0 0 idx
  | .getbit rs1 idx => pack 0x05#6 0 rs1.bits 0 idx
  | .setbit rd idx => pack 0x06#6 rd.bits 0 0 idx
  | .ldlow rd => pack 0x07#6 rd.bits 0 0 0
  | .ldmax rd => pack 0x08#6 rd.bits 0 0 0
  | .tst rs1 => pack 0x10#6 0 rs1.bits 0 0
  | .neg rd rs1 => pack 0x11#6 rd.bits rs1.bits 0 0
  | .sext rd rs1 f => pack 0x12#6 rd.bits rs1.bits 0 f
  | .fsb rs1 => pack 0x13#6 0 rs1.bits 0 0
  | .add rd rs1 rs2 => pack 0x18#6 rd.bits rs1.bits rs2.bits 0
  | .sub rd rs1 rs2 => pack 0x19#6 rd.bits rs1.bits rs2.bits 0
  | .inc rd rs1 => pack 0x1A#6 rd.bits rs1.bits 0 0
  | .dec rd rs1 => pack 0x1B#6 rd.bits rs1.bits 0 0
  | .mul rd rs1 rs2 => pack 0x20#6 rd.bits rs1.bits rs2.bits 0
  | .div rd rs1 rs2 => pack 0x24#6 rd.bits rs1.bits rs2.bits 0
  | .mod rd rs1 rs2 => pack 0x25#6 rd.bits rs1.bits rs2.bits 0
  | .divmod rd rd2 rs1 rs2 => pack 0x26#6 rd.bits rs1.bits rs2.bits (0#13 ++ rd2.bits)
  | .and rd rs1 rs2 => pack 0x28#6 rd.bits rs1.bits rs2.bits 0
  | .or rd rs1 rs2 => pack 0x29#6 rd.bits rs1.bits rs2.bits 0
  | .xor rd rs1 rs2 => pack 0x2A#6 rd.bits rs1.bits rs2.bits 0
  | .shl rd rs1 k => pack 0x2B#6 rd.bits rs1.bits 0 k
  | .shr rd rs1 k => pack 0x2C#6 rd.bits rs1.bits 0 k
  | .cmp rs1 rs2 => pack 0x30#6 0 rs1.bits rs2.bits 0
  | .castin rd width => pack 0x38#6 rd.bits 0 0 width
  | .castout rs1 width => pack 0x39#6 0 rs1.bits 0 width
  | .ldnc rd width => pack 0x3A#6 rd.bits 0 0 width

/-! The columns `match` and `mask` of R88, one entry per row, typed from the spec's table and used by no other definition of
the model: statements hold the decoder and the encoder against them. -/

/-- The column `match` of R88 for the command's row. -/
def Instr.rowMatch : Instr → CmdWord
  | .clr _ => 0x04000000#32
  | .mov _ _ => 0x08000000#32
  | .getbyte _ _ => 0x0C000000#32
  | .setbyte _ _ => 0x10000000#32
  | .getbit _ _ => 0x14000000#32
  | .setbit _ _ => 0x18000000#32
  | .ldlow _ => 0x1C000000#32
  | .ldmax _ => 0x20000000#32
  | .tst _ => 0x40000000#32
  | .neg _ _ => 0x44000000#32
  | .sext _ _ _ => 0x48000000#32
  | .fsb _ => 0x4C000000#32
  | .add _ _ _ => 0x60000000#32
  | .sub _ _ _ => 0x64000000#32
  | .inc _ _ => 0x68000000#32
  | .dec _ _ => 0x6C000000#32
  | .mul _ _ _ => 0x80000000#32
  | .div _ _ _ => 0x90000000#32
  | .mod _ _ _ => 0x94000000#32
  | .divmod _ _ _ _ => 0x98000000#32
  | .and _ _ _ => 0xA0000000#32
  | .or _ _ _ => 0xA4000000#32
  | .xor _ _ _ => 0xA8000000#32
  | .shl _ _ _ => 0xAC000000#32
  | .shr _ _ _ => 0xB0000000#32
  | .cmp _ _ => 0xC0000000#32
  | .castin _ _ => 0xE0000000#32
  | .castout _ _ => 0xE4000000#32
  | .ldnc _ _ => 0xE8000000#32

/-- The column `mask` of R88 for the command's row: 1 at every fixed bit (opcode and must-be-zero bits). -/
def Instr.rowMask : Instr → CmdWord
  | .clr _ => 0xFC7FFFFF#32
  | .mov _ _ => 0xFC0FFFFF#32
  | .getbyte _ _ => 0xFF8F0000#32
  | .setbyte _ _ => 0xFC7F0000#32
  | .getbit _ _ => 0xFF8F0000#32
  | .setbit _ _ => 0xFC7F0000#32
  | .ldlow _ => 0xFC7FFFFF#32
  | .ldmax _ => 0xFC7FFFFF#32
  | .tst _ => 0xFF8FFFFF#32
  | .neg _ _ => 0xFC0FFFFF#32
  | .sext _ _ _ => 0xFC0F0000#32
  | .fsb _ => 0xFF8FFFFF#32
  | .add _ _ _ => 0xFC01FFFF#32
  | .sub _ _ _ => 0xFC01FFFF#32
  | .inc _ _ => 0xFC0FFFFF#32
  | .dec _ _ => 0xFC0FFFFF#32
  | .mul _ _ _ => 0xFC01FFFF#32
  | .div _ _ _ => 0xFC01FFFF#32
  | .mod _ _ _ => 0xFC01FFFF#32
  | .divmod _ _ _ _ => 0xFC01FFF8#32
  | .and _ _ _ => 0xFC01FFFF#32
  | .or _ _ _ => 0xFC01FFFF#32
  | .xor _ _ _ => 0xFC01FFFF#32
  | .shl _ _ _ => 0xFC0F0000#32
  | .shr _ _ _ => 0xFC0F0000#32
  | .cmp _ _ => 0xFF81FFFF#32
  | .castin _ _ => 0xFC7F0000#32
  | .castout _ _ => 0xFF8F0000#32
  | .ldnc _ _ => 0xFC7F0000#32

/-- The command word that the opcode table's word `w` of `nbits` bits stands for: the table numbers bits as the command word
does, one word of 32 bits, the bits above `nbits` zero. -/
def tableCmdWord (nbits w : Nat) : CmdWord :=
  BitVec.ofNat 32 (w % 2 ^ nbits)

/-- What the decoder reads from the opcode table's word `w` of `nbits` bits. -/
def decodeTableWord (nbits w : Nat) : Option Instr :=
  match decode (tableCmdWord nbits w) with
  | .ok i => some i
  | .error _ => none

end Sys2Proof
end

