-- ==== Sys2Proof/Config.lean ====
section
/-! DEFINITION. What is fixed when a block is built: its width `N` and the width `WBUS` of its data buses
(spec 00_scope.md R5, R7; 93_implementation_defined.md K11: both are parameters). The spec leaves no value of an
instruction open, so there is no free value here. -/

namespace Sys2Proof

/-- The parameters of one block, with the ranges R5 and R7 give them. A block outside these ranges cannot be written. -/
structure Config where
  /-- `N`, the width of every value register (R5). -/
  n : Nat
  /-- `WBUS`, the width of `DIN` and of `DOUT` (R7). -/
  wbus : Nat
  n_pos : 1 ≤ n
  n_le : n ≤ 65535
  wbus_ge_n : n ≤ wbus
  wbus_ge_native : 64 ≤ wbus
  wbus_le : wbus ≤ 65535
deriving DecidableEq, Repr

/-- The block of width `n` with the default bus `WBUS = max(N, 64)` (R7). -/
def Config.ofWidth (n : Nat) (pos : 1 ≤ n) (le : n ≤ 65535) : Config where
  n := n
  wbus := max n 64
  n_pos := pos
  n_le := le
  wbus_ge_n := Nat.le_max_left n 64
  wbus_ge_native := Nat.le_max_right n 64
  wbus_le := Nat.max_le.mpr ⟨le, by omega⟩

/-- The block that `State.reset` is the reset state of: `N = 32`, `WBUS = 64`.
DESIGN CHOICE (log 1), unsafe for a claim about `State.reset` alone: the spec fixes no width. -/
def Config.default : Config := Config.ofWidth 32 (by decide) (by decide)

end Sys2Proof
end

