-- ==== Sys2Proof/Machine/State.lean ====
section
/-! DEFINITION. The state of the machine as plain data (spec 10_state.md), its reset value (R35), and the reasons a step can stop
(there is none: 60_exceptions.md R251, 93_implementation_defined.md "`step` is total and the block never halts"). -/

namespace Sys2Proof.Machine

/-- The fault kinds of the block (60_exceptions.md R240). A fault of the block is no `Fault` of the model: it is an ordinary next
state whose `STATUS` holds the kind's code (R248, R251). -/
inductive Kind where
  /-- A zero divisor (R241). -/
  | divideByZero
  /-- A byte or bit index outside the register (R242). -/
  | indexOutOfRange
  /-- A native value that does not fit in `N` signed bits (R243). -/
  | narrowingOverflow
  /-- Assigned and raised by no command of this hardware (R245). -/
  | invalidDigit
  /-- A malformed command word (R244). -/
  | illegal
deriving DecidableEq, Repr

/-- The bits of `FLAGS` by name (10_state.md R26). -/
inductive Flag where
  | neg | pos | low | max | lt | eq | gt | none
deriving DecidableEq, Repr

/-- The eight value registers, each `n` bits wide (10_state.md R20, R22). -/
structure Regs (n : Nat) where
  x0 : BitVec n
  x1 : BitVec n
  x2 : BitVec n
  x3 : BitVec n
  x4 : BitVec n
  x5 : BitVec n
  x6 : BitVec n
  x7 : BitVec n
deriving DecidableEq, Repr

/-- A command: the pair `(CW, DIN)` (30_encoding.md R70). -/
structure Command (wbus : Nat) where
  cw : CmdWord
  din : BitVec wbus
deriving DecidableEq, Repr

/-- The state of one block together with what the host still presents to it. -/
structure State where
  /-- The parameters `N` and `WBUS` of the block (00_scope.md R5, R7). No step changes them. -/
  cfg : Config
  /-- `x[0]` to `x[7]` (R20). -/
  x : Regs cfg.n
  /-- `FLAGS` (R26). -/
  flags : BitVec 8
  /-- `DOUT` (R34). -/
  dout : BitVec cfg.wbus
  /-- `STATUS` (R28). -/
  status : BitVec 3
  /-- `STICKY` (R29). -/
  sticky : BitVec 3
  /-- The model's own field: the value of the port `cmd_din` sampled with the command being executed (R31, R277; log 3). -/
  din : BitVec cfg.wbus
  /-- The model's own field: the commands the host has still to present, the next one first (R30, R33; log 2). -/
  cmds : List (Command cfg.wbus)
deriving DecidableEq, Repr

/-- Reasons for which a step stops with a fault: none. `step` is total and the block never halts (00_scope.md R16,
60_exceptions.md R250, R251); the faults of the spec are next states. -/
inductive Fault where
deriving DecidableEq, Repr

/-- Reasons for which a step is refused. -/
inductive Refusal where
  /-- Raised by `exec` for an instruction that has no meaning yet; safe. No arm of `exec` raises it: every instruction is modelled. -/
  | notModelled (mnemonic : String)
deriving DecidableEq, Repr

/-- What a step answers. -/
abbrev Result := Host.Outcome State Fault Refusal

/-- All eight registers zero (R25, R35). -/
def Regs.zero (n : Nat) : Regs n := ⟨0, 0, 0, 0, 0, 0, 0, 0⟩

/-- The reset state of the block `c` (10_state.md R35, 70_reset_and_hazards.md R270), with no command presented yet.
`din` is 0 by DESIGN CHOICE (log 3). -/
def State.resetAt (c : Config) : State where
  cfg := c
  x := Regs.zero c.n
  flags := 0
  dout := 0
  status := 0
  sticky := 0
  din := 0
  cmds := []

/-- The machine right after reset, for the block `Config.default` (log 1). -/
def State.reset : State := State.resetAt Config.default

end Sys2Proof.Machine
end

