-- ==== Sys2Proof/Machine/Ops.lean ====
section
/-! DEFINITION. The named operations every meaning is written with: register access, writing `DOUT`, completing a command, and
raising a fault, which is the ONE way this block takes an exception (spec 60_exceptions.md R248). There is no return from it
(R252) and no memory (20_memory.md R50). -/

namespace Sys2Proof.Machine

/-- Read a register of the file (10_state.md R21). -/
def Regs.get {n : Nat} (f : Regs n) : Reg → BitVec n
  | .x0 => f.x0 | .x1 => f.x1 | .x2 => f.x2 | .x3 => f.x3
  | .x4 => f.x4 | .x5 => f.x5 | .x6 => f.x6 | .x7 => f.x7

/-- Write a register of the file; the others keep their values (R21). -/
def Regs.set {n : Nat} (f : Regs n) (r : Reg) (v : BitVec n) : Regs n :=
  match r with
  | .x0 => { f with x0 := v } | .x1 => { f with x1 := v } | .x2 => { f with x2 := v } | .x3 => { f with x3 := v }
  | .x4 => { f with x4 := v } | .x5 => { f with x5 := v } | .x6 => { f with x6 := v } | .x7 => { f with x7 := v }

/-- `x[r]` (00_scope.md R10). -/
def State.reg (s : State) (r : Reg) : BitVec s.cfg.n := s.x.get r

/-- `x[r] <- v` (R10). -/
def State.setReg (s : State) (r : Reg) (v : BitVec s.cfg.n) : State := { s with x := s.x.set r v }

/-- `DOUT <- v` (R10, 10_state.md R34). -/
def State.setDout (s : State) (v : BitVec s.cfg.wbus) : State := { s with dout := v }

/-- `FLAGS <- v`; which bits a command changes is said in Flags.lean. -/
def State.setFlags (s : State) (v : BitVec 8) : State := { s with flags := v }

/-- The code of a fault kind (60_exceptions.md R240). -/
def Kind.code : Kind → BitVec 3
  | .divideByZero => 1
  | .indexOutOfRange => 2
  | .narrowingOverflow => 3
  | .invalidDigit => 4
  | .illegal => 5

/-- Fault entry, exactly and completely (R248): `STATUS <- code`, and `STICKY <- code` if it held 0. -/
def raise (k : Kind) (s : State) : State :=
  { s with status := k.code, sticky := if s.sticky = 0 then k.code else s.sticky }

/-- A command that completes writes `STATUS <- 0` (10_state.md R28, 40_storage_access.md R100). -/
def complete (s : State) : State := { s with status := 0 }

/-- The outcome of a command that ends in state `s` without a fault. -/
def done (s : State) : Result := .next (complete s)

/-- The outcome of a command that faults: a next state too (R250, R251). -/
def fail (k : Kind) (s : State) : Result := .next (raise k s)

/-- The block accepts the command `c`, `rest` being what the host presents after it: `DIN` is sampled together with the command
word (10_state.md R31, 70_reset_and_hazards.md R277). -/
def State.accept (s : State) (c : Command s.cfg.wbus) (rest : List (Command s.cfg.wbus)) : State :=
  { s with din := c.din, cmds := rest }

/-- The reset edge (70_reset_and_hazards.md R270, R274): the whole state of the block takes its reset values, whatever it was.
In a model reset is not a step (R270), so no step calls this (log 6). The parameters stay (R272) and the host keeps its list. -/
def State.rst (s : State) : State :=
  { s with x := Regs.zero s.cfg.n, flags := 0, dout := 0, status := 0, sticky := 0, din := 0 }

end Sys2Proof.Machine
end

