-- ==== Sys2Proof/Machine/Operands.lean ====
section
/-! DEFINITION. The parts of operands: the constants derived from `N` (spec 00_scope.md R6, R13), the byte view and the bit view of
a value (R12, 20_memory.md R51, R52) and the parts of `DIN` a command uses (30_encoding.md R82). -/

namespace Sys2Proof.Machine

/-- `byteCount = ceil(N/8)` (R6). -/
def byteCount (n : Nat) : Nat := (n + 7) / 8

/-- `topMask = 0xFF >> (byteCount*8 - N)` (R6). -/
def topMask (n : Nat) : BitVec 8 := 0xFF#8 >>> (byteCount n * 8 - n)

/-- `signMask = 1 << ((N-1) mod 8)` (R6). -/
def signMask (n : Nat) : BitVec 8 := 1#8 <<< ((n - 1) % 8)

/-- `unsignedMask = topMask - signMask` (R6). -/
def unsignedMask (n : Nat) : BitVec 8 := topMask n - signMask n

/-- `lowest(N)`: the sign bit alone set (R13). -/
def lowest (n : Nat) : BitVec n := BitVec.twoPow n (n - 1)

/-- `max(N)`: all bits set except the sign (R13). -/
def highest (n : Nat) : BitVec n := ~~~lowest n

/-- `byte(x, i)`: bits `8i+7 .. 8i`, with zeros where the value has no bits (R12). -/
def byteOf {n : Nat} (x : BitVec n) (i : Nat) : BitVec 8 := x.extractLsb' (8 * i) 8

/-- `setbyte(x, i, d)`: byte `i` replaced and the result truncated, so bits of `d` at positions `>= N` are dropped (R12). -/
def setByteOf {n : Nat} (x : BitVec n) (i : Nat) (d : BitVec 8) : BitVec n :=
  BitVec.ofNat n (x.toNat - (byteOf x i).toNat * 2 ^ (8 * i) + d.toNat * 2 ^ (8 * i))

/-- `x` with bit `j` replaced by `b` (40_storage_access.md R106). -/
def setBitOf {n : Nat} (x : BitVec n) (j : Nat) (b : Bool) : BitVec n :=
  if b then x ||| BitVec.twoPow n j else x &&& ~~~BitVec.twoPow n j

/-- `DIN[7:0]`, the byte `SETBYTE` stores (R82). -/
def State.dinByte (s : State) : BitVec 8 := s.din.setWidth 8

/-- `DIN[0]`, the bit `SETBIT` stores (R82). -/
def State.dinBit (s : State) : Bool := s.din.getLsbD 0

/-- `DIN[S-1:0]`, the `S`-bit value of `CASTIN` and `LDNC` (R82). -/
def State.dinLow (s : State) (width : Nat) : BitVec width := s.din.setWidth width

/-- `zext_WBUS(v)`, as it is put on `DOUT` (00_scope.md R10). -/
def State.zext {w : Nat} (s : State) (v : BitVec w) : BitVec s.cfg.wbus := v.setWidth s.cfg.wbus

end Sys2Proof.Machine
end

