-- ==== Sys2Proof/Machine/Arith.lean ====
section
/-! DEFINITION. The arithmetic of the datapath in the closed forms the spec gives for it, each DEDUCED by the spec itself from the
source's algorithm ("[derived: ...]", 93_implementation_defined.md K13, K14; log 4). The algorithms stand in Algorithms.lean and
statements say that the two agree. Results wrap modulo `2^N` (42_add_sub.md R140). -/

namespace Sys2Proof.Machine

/-- `complement(x) = trunc_N(2^N - u(x))`, the two's-complement negate (00_scope.md R14). -/
def complement {n : Nat} (x : BitVec n) : BitVec n := -x

/-- `mag(x)`: the magnitude pattern, read as unsigned by the multiplier and the divider (R15). -/
def mag {n : Nat} (x : BitVec n) : BitVec n := if x.msb then complement x else x

/-- `add(a, b) = trunc_N(u(a) + u(b))` (42_add_sub.md R141). -/
def addOf {n : Nat} (a b : BitVec n) : BitVec n := a + b

/-- `add(a, complement(b))` (R143). -/
def subOf {n : Nat} (a b : BitVec n) : BitVec n := addOf a (complement b)

/-- `mul(a, b) = trunc_N(s(a) * s(b))` (43_multiply.md R163). -/
def mulOf {n : Nat} (a b : BitVec n) : BitVec n := a * b

/-- The magnitude divider on unsigned patterns: quotient and remainder (44_divide.md R172, in the closed form of R174). -/
def udivmod {n : Nat} (d v : BitVec n) : BitVec n × BitVec n := (d / v, d % v)

/-- The signed wrapper (44_divide.md R173, 90_conflicts.md C2): the quotient takes the exclusive or of the signs, the remainder
takes the dividend's sign. -/
def sdivmod {n : Nat} (a b : BitVec n) : BitVec n × BitVec n :=
  let qr := udivmod (mag a) (mag b)
  (if Bool.xor a.msb b.msb then complement qr.1 else qr.1, if a.msb then complement qr.2 else qr.2)

/-- The index of the most significant set bit of a value that is not zero, `floor(log2(u(x)))` (41_sign_magnitude.md R125). -/
def fsbIndex {n : Nat} (x : BitVec n) : Nat := Nat.log2 x.toNat

/-- `fsb(x)`: -1 for zero, else the index (R125, decision D18; log 8). -/
def fsbOf {n : Nat} (x : BitVec n) : Int := if x = 0 then -1 else (fsbIndex x : Int)

/-- `sign_extend(x, f)`: bit `f` replicated into all higher positions (R126). -/
def signExtendFrom {n : Nat} (x : BitVec n) (f : Nat) : BitVec n := (x.setWidth (f + 1)).signExtend n

/-- `k` repetitions of `shl1`: `trunc_N(u(x) * 2^k)` (45_bitwise_shift.md R194, R195). -/
def shlOf {n : Nat} (x : BitVec n) (k : Nat) : BitVec n := x <<< k

/-- `k` repetitions of `shr1`: `floor(u(x) / 2^k)`, a logical shift (R194, R196, 90_conflicts.md C3). -/
def shrOf {n : Nat} (x : BitVec n) (k : Nat) : BitVec n := x >>> k

/-- `compare(a, b)`, the signed order (46_compare.md R211). -/
def compareOf {n : Nat} (a b : BitVec n) : Ordering :=
  if a.toInt < b.toInt then .lt else if a = b then .eq else .gt

/-- `cast_{S->T}(v) = trunc_T(s_S(v))` (47_width_cast.md R221). -/
def castOf {w : Nat} (t : Nat) (v : BitVec w) : BitVec t := v.signExtend t

/-- The integer `k` is representable in `n` signed bits: `-2^(n-1) <= k <= 2^(n-1) - 1` (R224). -/
def fitsSigned (n : Nat) (k : Int) : Bool := decide (-2 ^ (n - 1) ≤ k) && decide (k ≤ 2 ^ (n - 1) - 1)

end Sys2Proof.Machine
end

