-- ==== Sys2Proof/Machine/Flags.lean ====
section
/-! DEFINITION. `FLAGS`: where each bit stands and what the three commands that write it compute (spec 10_state.md R26, R27).
Every other command leaves `FLAGS` unchanged, and there is no carry, borrow or overflow flag (R27, 42_add_sub.md R147). -/

namespace Sys2Proof.Machine

/-- The bit number of a flag (R26). -/
def Flag.bit : Flag → Nat
  | .neg => 0 | .pos => 1 | .low => 2 | .max => 3
  | .lt => 4 | .eq => 5 | .gt => 6 | .none => 7

/-- `FLAGS.NAME <- b` on a value of `FLAGS` (00_scope.md R10). -/
def writeFlag (fl : BitVec 8) (f : Flag) (b : Bool) : BitVec 8 := setBitOf fl f.bit b

/-- Read a flag. -/
def State.flag (s : State) (f : Flag) : Bool := s.flags.getLsbD f.bit

/-- The flags after `TST` of `v`: bits 3:0 (41_sign_magnitude.md R121). -/
def tstFlags {n : Nat} (fl : BitVec 8) (v : BitVec n) : BitVec 8 :=
  writeFlag (writeFlag (writeFlag (writeFlag fl .neg v.msb) .pos (!v.msb)) .low (v == lowest n)) .max (v == highest n)

/-- The flags after `FSB` of `v`: bit 7 (R124). -/
def fsbFlags {n : Nat} (fl : BitVec 8) (v : BitVec n) : BitVec 8 := writeFlag fl .none (v == 0)

/-- The flags after `CMP` with result `c`: bits 6:4 (46_compare.md R212). -/
def cmpFlags (fl : BitVec 8) (c : Ordering) : BitVec 8 :=
  writeFlag (writeFlag (writeFlag fl .lt (c == .lt)) .eq (c == .eq)) .gt (c == .gt)

end Sys2Proof.Machine
end

