-- ==== Sys2Proof/Machine/AddSub.lean ====
section
/-! DEFINITION. Carry and borrow arithmetic (spec 42_add_sub.md R140 to R147). No flag is written and nothing faults. -/

namespace Sys2Proof.Machine

/-- `ADD rd, rs1, rs2` (R142). -/
def execAdd (rd rs1 rs2 : Reg) (s : State) : Result := done (s.setReg rd (addOf (s.reg rs1) (s.reg rs2)))

/-- `SUB rd, rs1, rs2` (R143). -/
def execSub (rd rs1 rs2 : Reg) (s : State) : Result := done (s.setReg rd (subOf (s.reg rs1) (s.reg rs2)))

/-- `INC rd, rs1` (R144). -/
def execInc (rd rs1 : Reg) (s : State) : Result := done (s.setReg rd (addOf (s.reg rs1) (BitVec.ofNat s.cfg.n 1)))

/-- `DEC rd, rs1` (R145, 90_conflicts.md C1). -/
def execDec (rd rs1 : Reg) (s : State) : Result := done (s.setReg rd (subOf (s.reg rs1) (BitVec.ofNat s.cfg.n 1)))

end Sys2Proof.Machine
end

