-- ==== Sys2Proof/Machine/BitwiseShift.lean ====
section
/-! DEFINITION. Bitwise logic and shifts (spec 45_bitwise_shift.md R190 to R198). Nothing faults, for any shift count. -/

namespace Sys2Proof.Machine

/-- `AND rd, rs1, rs2` (R191). -/
def execAnd (rd rs1 rs2 : Reg) (s : State) : Result := done (s.setReg rd (s.reg rs1 &&& s.reg rs2))

/-- `OR rd, rs1, rs2` (R192). -/
def execOr (rd rs1 rs2 : Reg) (s : State) : Result := done (s.setReg rd (s.reg rs1 ||| s.reg rs2))

/-- `XOR rd, rs1, rs2` (R193). -/
def execXor (rd rs1 rs2 : Reg) (s : State) : Result := done (s.setReg rd (s.reg rs1 ^^^ s.reg rs2))

/-- `SHL rd, rs1, #k` (R195). -/
def execShl (rd rs1 : Reg) (k : Imm) (s : State) : Result := done (s.setReg rd (shlOf (s.reg rs1) k.toNat))

/-- `SHR rd, rs1, #k` (R196): logical. -/
def execShr (rd rs1 : Reg) (k : Imm) (s : State) : Result := done (s.setReg rd (shrOf (s.reg rs1) k.toNat))

end Sys2Proof.Machine
end

