-- ==== Sys2Proof/Machine/Compare.lean ====
section
/-! DEFINITION. Comparison (spec 46_compare.md R210 to R213). -/

namespace Sys2Proof.Machine

/-- `CMP rs1, rs2` (R212). -/
def execCmp (rs1 rs2 : Reg) (s : State) : Result :=
  done (s.setFlags (cmpFlags s.flags (compareOf (s.reg rs1) (s.reg rs2))))

end Sys2Proof.Machine
end

