-- ==== Sys2Proof/Machine/Divide.lean ====
section
/-! DEFINITION. Division and modulo (spec 44_divide.md R170 to R180). -/

namespace Sys2Proof.Machine

/-- `DIV rd, rs1, rs2` (R175). -/
def execDiv (rd rs1 rs2 : Reg) (s : State) : Result :=
  if s.reg rs2 = 0 then fail .divideByZero s
  else done (s.setReg rd (sdivmod (s.reg rs1) (s.reg rs2)).1)

/-- `MOD rd, rs1, rs2` (R176). -/
def execMod (rd rs1 rs2 : Reg) (s : State) : Result :=
  if s.reg rs2 = 0 then fail .divideByZero s
  else done (s.setReg rd (sdivmod (s.reg rs1) (s.reg rs2)).2)

/-- `DIVMOD rd, rd2, rs1, rs2` (R177); equal destinations are `ILLEGAL` before the divisor is examined (R178, R247). -/
def execDivmod (rd rd2 rs1 rs2 : Reg) (s : State) : Result :=
  if rd = rd2 then fail .illegal s
  else if s.reg rs2 = 0 then fail .divideByZero s
  else
    let qr := sdivmod (s.reg rs1) (s.reg rs2)
    done { s with x := (s.x.set rd qr.1).set rd2 qr.2 }

end Sys2Proof.Machine
end

