-- ==== Sys2Proof/Machine/Multiply.lean ====
section
/-! DEFINITION. Multiplication (spec 43_multiply.md R160 to R164). -/

namespace Sys2Proof.Machine

/-- `MUL rd, rs1, rs2` (R162, closed form R163). -/
def execMul (rd rs1 rs2 : Reg) (s : State) : Result := done (s.setReg rd (mulOf (s.reg rs1) (s.reg rs2)))

end Sys2Proof.Machine
end

