-- ==== Sys2Proof/Machine/SignMagnitude.lean ====
section
/-! DEFINITION. Sign and magnitude commands (spec 41_sign_magnitude.md R120 to R127). -/

namespace Sys2Proof.Machine

/-- `TST rs1` (R121): zero is positive (decision D19). -/
def execTst (rs1 : Reg) (s : State) : Result := done (s.setFlags (tstFlags s.flags (s.reg rs1)))

/-- `NEG rd, rs1` (R122). -/
def execNeg (rd rs1 : Reg) (s : State) : Result := done (s.setReg rd (complement (s.reg rs1)))

/-- `SEXT rd, rs1, #f` (R123). -/
def execSext (rd rs1 : Reg) (f : Imm) (s : State) : Result :=
  if s.cfg.n ≤ f.toNat then fail .indexOutOfRange s
  else done (s.setReg rd (signExtendFrom (s.reg rs1) f.toNat))

/-- `FSB rs1` (R124): for zero `NONE` is set and `DOUT` is all ones (decision D18). -/
def execFsb (rs1 : Reg) (s : State) : Result :=
  let v := s.reg rs1
  let d : BitVec s.cfg.wbus := if v = 0 then BitVec.allOnes s.cfg.wbus else BitVec.ofNat s.cfg.wbus (fsbIndex v)
  done { s with flags := fsbFlags s.flags v, dout := d }

end Sys2Proof.Machine
end

