-- ==== Sys2Proof/Machine/Storage.lean ====
section
/-! DEFINITION. Storage and access commands (spec 40_storage_access.md R100 to R109). -/

namespace Sys2Proof.Machine

/-- `CLR rd` (R101). -/
def execClr (rd : Reg) (s : State) : Result := done (s.setReg rd 0)

/-- `MOV rd, rs1` (R102). -/
def execMov (rd rs1 : Reg) (s : State) : Result := done (s.setReg rd (s.reg rs1))

/-- `GETBYTE rs1, #idx` (R103): the bound is `byteCount` (90_conflicts.md C5). -/
def execGetbyte (rs1 : Reg) (idx : Imm) (s : State) : Result :=
  if byteCount s.cfg.n ≤ idx.toNat then fail .indexOutOfRange s
  else done (s.setDout (s.zext (byteOf (s.reg rs1) idx.toNat)))

/-- `SETBYTE rd, #idx ; din=d` (R104, R109): bits outside the top byte's mask are dropped (decision D20). -/
def execSetbyte (rd : Reg) (idx : Imm) (s : State) : Result :=
  if byteCount s.cfg.n ≤ idx.toNat then fail .indexOutOfRange s
  else done (s.setReg rd (setByteOf (s.reg rd) idx.toNat s.dinByte))

/-- `GETBIT rs1, #idx` (R105). -/
def execGetbit (rs1 : Reg) (idx : Imm) (s : State) : Result :=
  if s.cfg.n ≤ idx.toNat then fail .indexOutOfRange s
  else done (s.setDout (s.zext (BitVec.ofBool ((s.reg rs1).getLsbD idx.toNat))))

/-- `SETBIT rd, #idx ; din=b` (R106). -/
def execSetbit (rd : Reg) (idx : Imm) (s : State) : Result :=
  if s.cfg.n ≤ idx.toNat then fail .indexOutOfRange s
  else done (s.setReg rd (setBitOf (s.reg rd) idx.toNat s.dinBit))

/-- `LDLOW rd` (R107). -/
def execLdlow (rd : Reg) (s : State) : Result := done (s.setReg rd (lowest s.cfg.n))

/-- `LDMAX rd` (R108). -/
def execLdmax (rd : Reg) (s : State) : Result := done (s.setReg rd (highest s.cfg.n))

end Sys2Proof.Machine
end

