-- ==== Sys2Proof/Machine/WidthCast.lean ====
section
/-! DEFINITION. Width casting at the data ports and the checked native load (spec 47_width_cast.md R220 to R226). The width checks
are 30_encoding.md R84 (b) and (c). -/

namespace Sys2Proof.Machine

/-- `CASTIN rd, #S ; din=v` (R222): it truncates silently (R226, 90_conflicts.md C4). -/
def execCastin (rd : Reg) (width : Imm) (s : State) : Result :=
  if width.toNat = 0 ∨ s.cfg.wbus < width.toNat then fail .illegal s
  else done (s.setReg rd (castOf s.cfg.n (s.dinLow width.toNat)))

/-- `CASTOUT rs1, #T` (R223). -/
def execCastout (rs1 : Reg) (width : Imm) (s : State) : Result :=
  if width.toNat = 0 ∨ s.cfg.wbus < width.toNat then fail .illegal s
  else done (s.setDout (s.zext (castOf width.toNat (s.reg rs1))))

/-- `LDNC rd, #S ; din=v` (R224; log 8). -/
def execLdnc (rd : Reg) (width : Imm) (s : State) : Result :=
  if ¬(width.toNat = 8 ∨ width.toNat = 16 ∨ width.toNat = 32 ∨ width.toNat = 64) then fail .illegal s
  else if fitsSigned s.cfg.n (s.dinLow width.toNat).toInt then
    done (s.setReg rd (BitVec.ofInt s.cfg.n (s.dinLow width.toNat).toInt))
  else fail .narrowingOverflow s

end Sys2Proof.Machine
end

