-- ==== Sys2Proof/Machine/Dispatch.lean ====
section
/-! DEFINITION. One arm per command, each one direct call of its meaning. -/

namespace Sys2Proof.Machine

def exec (i : Instr) (s : State) : Host.Outcome State Fault Refusal :=
  match i with
  | .clr rd => Sys2Proof.Machine.execClr rd s
  | .mov rd rs1 => Sys2Proof.Machine.execMov rd rs1 s
  | .getbyte rs1 idx => Sys2Proof.Machine.execGetbyte rs1 idx s
  | .setbyte rd idx => Sys2Proof.Machine.execSetbyte rd idx s
  | .getbit rs1 idx => Sys2Proof.Machine.execGetbit rs1 idx s
  | .setbit rd idx => Sys2Proof.Machine.execSetbit rd idx s
  | .ldlow rd => Sys2Proof.Machine.execLdlow rd s
  | .ldmax rd => Sys2Proof.Machine.execLdmax rd s
  | .tst rs1 => Sys2Proof.Machine.execTst rs1 s
  | .neg rd rs1 => Sys2Proof.Machine.execNeg rd rs1 s
  | .sext rd rs1 f => Sys2Proof.Machine.execSext rd rs1 f s
  | .fsb rs1 => Sys2Proof.Machine.execFsb rs1 s
  | .add rd rs1 rs2 => Sys2Proof.Machine.execAdd rd rs1 rs2 s
  | .sub rd rs1 rs2 => Sys2Proof.Machine.execSub rd rs1 rs2 s
  | .inc rd rs1 => Sys2Proof.Machine.execInc rd rs1 s
  | .dec rd rs1 => Sys2Proof.Machine.execDec rd rs1 s
  | .mul rd rs1 rs2 => Sys2Proof.Machine.execMul rd rs1 rs2 s
  | .div rd rs1 rs2 => Sys2Proof.Machine.execDiv rd rs1 rs2 s
  | .mod rd rs1 rs2 => Sys2Proof.Machine.execMod rd rs1 rs2 s
  | .divmod rd rd2 rs1 rs2 => Sys2Proof.Machine.execDivmod rd rd2 rs1 rs2 s
  | .and rd rs1 rs2 => Sys2Proof.Machine.execAnd rd rs1 rs2 s
  | .or rd rs1 rs2 => Sys2Proof.Machine.execOr rd rs1 rs2 s
  | .xor rd rs1 rs2 => Sys2Proof.Machine.execXor rd rs1 rs2 s
  | .shl rd rs1 k => Sys2Proof.Machine.execShl rd rs1 k s
  | .shr rd rs1 k => Sys2Proof.Machine.execShr rd rs1 k s
  | .cmp rs1 rs2 => Sys2Proof.Machine.execCmp rs1 rs2 s
  | .castin rd width => Sys2Proof.Machine.execCastin rd width s
  | .castout rs1 width => Sys2Proof.Machine.execCastout rs1 width s
  | .ldnc rd width => Sys2Proof.Machine.execLdnc rd width s

end Sys2Proof.Machine
end

