-- ==== Sys2Proof/Machine/Issue.lean ====
section
/-! DEFINITION. Executing one accepted command: decoding comes first (spec 60_exceptions.md R247), then the command's rule. -/

namespace Sys2Proof.Machine

/-- The block accepts the command `c` and executes it whole; `rest` is what the host presents after it. A word that does not
decode is `ILLEGAL` (30_encoding.md R83, 60_exceptions.md R244). -/
def issue (s : State) (c : Command s.cfg.wbus) (rest : List (Command s.cfg.wbus)) : Result :=
  match decode c.cw with
  | .ok i => exec i (s.accept c rest)
  | .error _ => fail .illegal (s.accept c rest)

/-- No command is presented: the block is idle and all state is held (60_exceptions.md R257; log 2). -/
def idle (s : State) : Result := .next s

/-- `s` with the command word `cw` presented as the next command, its `DIN` zero (log 2). -/
def State.present (s : State) (cw : CmdWord) : State := { s with cmds := ⟨cw, 0⟩ :: s.cmds }

end Sys2Proof.Machine
end

