-- ==== Sys2Proof/Machine/Step.lean ====
section
/-! DEFINITION. One step of the machine: the block accepts the next command the host presents and executes it whole
(spec 00_scope.md R16, 70_reset_and_hazards.md R276). -/

namespace Sys2Proof.Machine

/-- One step (R16). -/
def step (s : State) : Host.Outcome State Fault Refusal :=
  match s.cmds with
  | [] => idle s
  | c :: rest => issue s c rest

/-- `s` with the opcode table's word `w` of `nbits` bits presented as the next command (log 2). -/
def State.withFetchWord (s : State) (nbits w : Nat) : State := s.present (tableCmdWord nbits w)

end Sys2Proof.Machine
end

