-- ==== Sys2Proof/Machine/Algorithms.lean ====
section
/-! DEFINITION. The source's algorithms as the spec transcribes them, byte by byte and bit by bit. The machine's meanings use the
closed forms of Arith.lean; statements say that each algorithm computes its closed form (log 4). -/

namespace Sys2Proof.Machine

/-- The number whose byte `i` is `f i`, for `i < count`, least significant byte first (00_scope.md R12, 20_memory.md R53). -/
def fromBytes (f : Nat → Nat) : Nat → Nat
  | 0 => 0
  | count + 1 => fromBytes f count + f count * 2 ^ (8 * count)

/-- The carry into byte `i` of the byte-wise sum (42_add_sub.md R141). -/
def addCarry {n : Nat} (a b : BitVec n) : Nat → Nat
  | 0 => 0
  | i + 1 => ((byteOf a i).toNat + (byteOf b i).toNat + addCarry a b i) / 256

/-- Byte `i` of the byte-wise sum, `s mod 256` (R141). -/
def addByte {n : Nat} (a b : BitVec n) (i : Nat) : Nat :=
  ((byteOf a i).toNat + (byteOf b i).toNat + addCarry a b i) % 256

/-- The byte-wise adder with carry propagation, the last carry discarded, then truncated (R141). -/
def addBytes {n : Nat} (a b : BitVec n) : BitVec n := BitVec.ofNat n (fromBytes (addByte a b) (byteCount n))

/-- "bitwise NOT every byte, then add 1, then truncate" (00_scope.md R14). -/
def complementBytes {n : Nat} (x : BitVec n) : BitVec n :=
  BitVec.ofNat n (fromBytes (fun i => (~~~byteOf x i).toNat) (byteCount n) + 1)

/-- One bit position of the multiplier's loop on `(accumulator, shiftedB)` (43_multiply.md R161 step 3). -/
def mulStep {n : Nat} (a : BitVec n) (p : BitVec n × BitVec n) (i : Nat) : BitVec n × BitVec n :=
  (if a.getLsbD i then addOf p.1 p.2 else p.1, p.2 <<< 1)

/-- Shift-and-add on magnitudes (R161). -/
def mulShiftAdd {n : Nat} (a b : BitVec n) : BitVec n :=
  let acc := ((List.range n).foldl (mulStep (mag a)) (0, mag b)).1
  if Bool.xor a.msb b.msb then complement acc else acc

/-- The divider's loop from bit position `count - 1` down to 0, on the right-shifted divisor `d`, the quotient `q` and the running
remainder `r` (44_divide.md R172). -/
def divLoop {n : Nat} : Nat → BitVec n → BitVec n → BitVec n → BitVec n × BitVec n
  | 0, _, q, r => (q, r)
  | i + 1, d, q, r =>
    if d.toNat ≤ r.toNat then divLoop i (d >>> 1) (setBitOf q i true) (r - d)
    else divLoop i (d >>> 1) q r

/-- Restoring long division of magnitudes (R172); `v` is not zero. -/
def udivmodLong {n : Nat} (d v : BitVec n) : BitVec n × BitVec n :=
  if d = 0 then (0, 0)
  else
    let shift := fsbOf d - fsbOf v
    if shift < 0 then (0, d) else divLoop (shift.toNat + 1) (v <<< shift.toNat) 0 d

/-- The byte comparison of 46_compare.md R211 over the bytes `count - 1` down to 0. -/
def compareBytesFrom {n : Nat} (a b : BitVec n) : Nat → Ordering
  | 0 => .eq
  | i + 1 =>
    if (byteOf a i).toNat < (byteOf b i).toNat then .lt
    else if (byteOf b i).toNat < (byteOf a i).toNat then .gt
    else compareBytesFrom a b i

/-- "Compare sign bits first", then bytes from the most significant down (R211). -/
def compareBytes {n : Nat} (a b : BitVec n) : Ordering :=
  if a.msb != b.msb then (if a.msb then .lt else .gt) else compareBytesFrom a b (byteCount n)

/-- The cast by copying the overlapping low-order bytes, sign-extending from bit `S-1` when widening, and truncating
(47_width_cast.md R221). -/
def castBytes {w : Nat} (t : Nat) (v : BitVec w) : BitVec t :=
  let copied := BitVec.ofNat t (fromBytes (fun i => (byteOf v i).toNat) (min (byteCount w) (byteCount t)))
  if w < t then signExtendFrom copied (w - 1) else copied

/-- `shl1(x) = trunc_N(u(x) * 2)` (45_bitwise_shift.md R194). -/
def shl1 {n : Nat} (x : BitVec n) : BitVec n := BitVec.ofNat n (x.toNat * 2)

/-- `shr1(x) = floor(u(x) / 2)` (R194). -/
def shr1 {n : Nat} (x : BitVec n) : BitVec n := BitVec.ofNat n (x.toNat / 2)

/-- `k` repetitions of a one-bit shift (R194). -/
def repeatShift {n : Nat} (f : BitVec n → BitVec n) : Nat → BitVec n → BitVec n
  | 0, x => x
  | k + 1, x => repeatShift f k (f x)

/-- Increment with the carry limited to the bytes that change: bytes from `i` on, `fuel` of them left (42_add_sub.md R144). -/
def incBytesFrom {n : Nat} : Nat → Nat → BitVec n → BitVec n
  | 0, _, x => x
  | fuel + 1, i, x =>
    if byteOf x i = 0xFF#8 then incBytesFrom fuel (i + 1) (setByteOf x i 0) else setByteOf x i (byteOf x i + 1)

/-- Decrement with the borrow limited to the bytes that change (R145). -/
def decBytesFrom {n : Nat} : Nat → Nat → BitVec n → BitVec n
  | 0, _, x => x
  | fuel + 1, i, x =>
    if byteOf x i = 0#8 then decBytesFrom fuel (i + 1) (setByteOf x i 0xFF#8) else setByteOf x i (byteOf x i - 1)

/-- The source's `increment` (R144). -/
def incBytes {n : Nat} (x : BitVec n) : BitVec n := incBytesFrom (byteCount n) 0 x

/-- The source's `decrement` (R145). -/
def decBytes {n : Nat} (x : BitVec n) : BitVec n := decBytesFrom (byteCount n) 0 x

end Sys2Proof.Machine
end

