-- ==== Sys2Proof/Machine/Ports.lean ====
section
/-! DEFINITION. What the host can see of the block between commands: the output ports (spec 10_state.md R31, 70_reset_and_hazards.md
R279). The handshake `cmd_valid`, `cmd_ready`, `rsp_valid` is abstracted to one step per accepted command, as R31 says (log 7). -/

namespace Sys2Proof.Machine

/-- The output ports `status`, `sticky`, `flags`, `dout` (R31). -/
structure Outputs (wbus : Nat) where
  status : BitVec 3
  sticky : BitVec 3
  flags : BitVec 8
  dout : BitVec wbus
deriving DecidableEq, Repr

/-- Between commands the ports show the architectural registers (R279); no value register has a port (R31). -/
def State.outputs (s : State) : Outputs s.cfg.wbus := ⟨s.status, s.sticky, s.flags, s.dout⟩

end Sys2Proof.Machine
end

