-- ==== Sys2Proof/Safety.lean ====
section
/-! DEFINITION. The terms claims are made in: what a command may end in, which registers and data bits it uses (spec 10_state.md R23,
30_encoding.md R82), which states are legal, and what a run without a recorded fault is (10_state.md R29). -/

namespace Sys2Proof.Machine

/-! How a command ends. In each, everything not named keeps its value: registers, `FLAGS`, `DOUT`, `STICKY`, the parameters and
the host's list. -/

/-- The command completes, writes `v` to the register `rd` and changes nothing else (`STATUS` becomes 0). -/
def Writes (o : Result) (s : State) (rd : Reg) (v : BitVec s.cfg.n) : Prop :=
  ∃ y : Regs s.cfg.n, o = .next { s with x := y, status := 0 } ∧ ∀ r, y.get r = if r = rd then v else s.x.get r

/-- The command completes, writes `q` to `rd` and `v` to `rd2`, and changes nothing else (`STATUS` becomes 0). -/
def WritesBoth (o : Result) (s : State) (rd : Reg) (q : BitVec s.cfg.n) (rd2 : Reg) (v : BitVec s.cfg.n) : Prop :=
  ∃ y : Regs s.cfg.n, o = .next { s with x := y, status := 0 } ∧
    ∀ r, y.get r = if r = rd then q else if r = rd2 then v else s.x.get r

/-- The command completes, writes `d` to `DOUT` and changes nothing else (`STATUS` becomes 0). -/
def Shows (o : Result) (s : State) (d : BitVec s.cfg.wbus) : Prop := o = .next { s with dout := d, status := 0 }

/-- The command completes, writes `fl` to `FLAGS` and changes nothing else (`STATUS` becomes 0). -/
def WritesFlags (o : Result) (s : State) (fl : BitVec 8) : Prop := o = .next { s with flags := fl, status := 0 }

/-- The command faults with `code`: `STATUS` holds it, `STICKY` takes it if it was 0, nothing else changes
(60_exceptions.md R248). -/
def Faults (o : Result) (s : State) (code : BitVec 3) : Prop :=
  o = .next { s with status := code, sticky := if s.sticky = 0 then code else s.sticky }

/-- Two states show the same architectural state: parameters, registers, `FLAGS`, `DOUT`, `STATUS`, `STICKY`. -/
def SameArch (t u : State) : Prop :=
  t.cfg = u.cfg ∧ (∀ r, (t.reg r).toNat = (u.reg r).toNat) ∧ t.flags = u.flags ∧ t.dout.toNat = u.dout.toNat ∧
    t.status = u.status ∧ t.sticky = u.sticky

/-- The commands still to be presented, in a form that can be compared between states. -/
def State.pending (s : State) : List (CmdWord × Nat) := s.cmds.map fun c => (c.cw, c.din.toNat)

/-- The value registers a command writes (R23). -/
def destinations : Instr → List Reg
  | .clr rd | .ldlow rd | .ldmax rd => [rd]
  | .mov rd _ | .neg rd _ | .inc rd _ | .dec rd _ => [rd]
  | .sext rd _ _ | .shl rd _ _ | .shr rd _ _ => [rd]
  | .setbyte rd _ | .setbit rd _ => [rd]
  | .getbyte _ _ | .getbit _ _ | .fsb _ | .tst _ | .castout _ _ => []
  | .add rd _ _ | .sub rd _ _ | .mul rd _ _ | .div rd _ _ | .mod rd _ _ | .and rd _ _ | .or rd _ _ | .xor rd _ _ => [rd]
  | .divmod rd rd2 _ _ => [rd, rd2]
  | .cmp _ _ => []
  | .castin rd _ | .ldnc rd _ => [rd]

/-- The value registers a command reads (R23). -/
def sources : Instr → List Reg
  | .clr _ | .ldlow _ | .ldmax _ => []
  | .mov _ rs1 | .neg _ rs1 | .inc _ rs1 | .dec _ rs1 => [rs1]
  | .sext _ rs1 _ | .shl _ rs1 _ | .shr _ rs1 _ => [rs1]
  | .setbyte rd _ | .setbit rd _ => [rd]
  | .getbyte rs1 _ | .getbit rs1 _ | .fsb rs1 | .tst rs1 | .castout rs1 _ => [rs1]
  | .add _ rs1 rs2 | .sub _ rs1 rs2 | .mul _ rs1 rs2 | .div _ rs1 rs2 | .mod _ rs1 rs2 => [rs1, rs2]
  | .and _ rs1 rs2 | .or _ rs1 rs2 | .xor _ rs1 rs2 => [rs1, rs2]
  | .divmod _ _ rs1 rs2 => [rs1, rs2]
  | .cmp rs1 rs2 => [rs1, rs2]
  | .castin _ _ | .ldnc _ _ => []

/-- How many low bits of `DIN` a command uses (R82). -/
def dinBits : Instr → Nat
  | .setbyte _ _ => 8
  | .setbit _ _ => 1
  | .castin _ width | .ldnc _ width => width.toNat
  | .clr _ | .mov _ _ | .getbyte _ _ | .getbit _ _ | .ldlow _ | .ldmax _ => 0
  | .tst _ | .neg _ _ | .sext _ _ _ | .fsb _ => 0
  | .add _ _ _ | .sub _ _ _ | .inc _ _ | .dec _ _ | .mul _ _ _ | .div _ _ _ | .mod _ _ _ | .divmod _ _ _ _ => 0
  | .and _ _ _ | .or _ _ _ | .xor _ _ _ | .shl _ _ _ | .shr _ _ _ | .cmp _ _ | .castout _ _ => 0

/-- The commands through which the host observes the value registers (10_state.md R31), and the three whose `STATUS` tells whether a
divisor is zero (R241). -/
def observesRegisters : Instr → Bool
  | .getbyte _ _ | .getbit _ _ | .castout _ _ | .tst _ | .cmp _ _ | .fsb _ => true
  | .div _ _ _ | .mod _ _ _ | .divmod _ _ _ _ => true
  | .clr _ | .mov _ _ | .setbyte _ _ | .setbit _ _ | .ldlow _ | .ldmax _ | .neg _ _ | .sext _ _ _ => false
  | .add _ _ _ | .sub _ _ _ | .inc _ _ | .dec _ _ | .mul _ _ _ => false
  | .and _ _ _ | .or _ _ _ | .xor _ _ _ | .shl _ _ _ | .shr _ _ _ | .castin _ _ | .ldnc _ _ => false

/-- The codes a command of this hardware can end with: 0, 1, 2, 3, 5 (60_exceptions.md R240, R245). -/
def legalCode (c : BitVec 3) : Prop := c = 0 ∨ c = 1 ∨ c = 2 ∨ c = 3 ∨ c = 5

/-- The states the block can be in (10_state.md R26, R28, R29; 41_sign_magnitude.md R121 (c); 46_compare.md R212). -/
structure State.Inv (s : State) : Prop where
  /-- `STATUS` holds a code that is produced. -/
  status_legal : legalCode s.status
  /-- `STICKY` holds a code that is produced. -/
  sticky_legal : legalCode s.sticky
  /-- With no fault recorded, the last command completed. -/
  no_fault_no_code : s.sticky = 0 → s.status = 0
  /-- `NEG` and `POS` are never both 1. -/
  one_sign : (s.flag .neg && s.flag .pos) = false
  /-- `LOW = 1` implies `NEG = 1`. -/
  low_is_negative : s.flag .low = true → s.flag .neg = true
  /-- `MAX = 1` implies `POS = 1`. -/
  max_is_positive : s.flag .max = true → s.flag .pos = true
  /-- At most one of `LT`, `EQ`, `GT` is 1. -/
  one_order : (s.flag .lt && s.flag .eq) = false ∧ (s.flag .lt && s.flag .gt) = false ∧ (s.flag .eq && s.flag .gt) = false

/-- No fault has been recorded since reset: the premise a claim about a run may take (10_state.md R29). -/
def State.noFault (s : State) : Prop := s.sticky = 0

/-- The value of a byte list, low byte first (40_storage_access.md R109). -/
def listValue (bytes : List (BitVec 8)) : Nat := bytes.foldr (fun b acc => b.toNat + 256 * acc) 0

/-- The commands `LDBYTES` stands for: `CLR rd`, then `SETBYTE rd, #j` for each byte of the list (R109; 30_encoding.md R87). -/
def ldbytes (wbus : Nat) (rd : Reg) (bytes : List (BitVec 8)) : List (Command wbus) :=
  ⟨encode (.clr rd), 0⟩ ::
    bytes.zipIdx.map fun p => ⟨encode (.setbyte rd (BitVec.ofNat 16 p.2)), p.1.setWidth wbus⟩

end Sys2Proof.Machine
end

