-- ==== Sys2Proof/Certificates/Slice0/Obligations.lean ====
section
/-! DEFINITION. The statements for the provers. Each docstring names the rule of spec/ the statement formalises; readings of values
are `toNat` for `u(x)` and `toInt` for `s(x)` (00_scope.md R9). -/

open Sys2Proof Sys2Proof.Machine

/-! ## The step and the encoding -/

/-- A step accepts the next command and runs the decoded command on the state in which `DIN` holds the command's data and the host's
list is one shorter (00_scope.md R16, 70_reset_and_hazards.md R276, R277). -/
def Obligations.StepRunsDecodedCommand : Prop :=
  ∀ (s : State) (c : Command s.cfg.wbus) (rest : List (Command s.cfg.wbus)) (i : Instr),
    s.cmds = c :: rest → decode c.cw = .ok i → i.wellFormed s.cfg.wbus = true →
      step s = exec i { s with din := c.din, cmds := rest }

/-- The nine example words of 30_encoding.md R86 decode to the commands written beside them. -/
def Obligations.ExampleWordsDecode : Prop :=
  decode 0x05800000#32 = .ok (.clr .x3) ∧ decode 0x44A00000#32 = .ok (.neg .x1 .x2) ∧
  decode 0x60A60000#32 = .ok (.add .x1 .x2 .x3) ∧ decode 0x99020003#32 = .ok (.divmod .x2 .x3 .x0 .x1) ∧
  decode 0xAC800003#32 = .ok (.shl .x1 .x0 3#16) ∧ decode 0x10000001#32 = .ok (.setbyte .x0 1#16) ∧
  decode 0x40500000#32 = .ok (.tst .x5) ∧ decode 0x14100010#32 = .ok (.getbit .x1 16#16) ∧
  decode 0xC0140000#32 = .ok (.cmp .x1 .x2)

/-- Decoding the word of a command gives the command back, for every command and every value of every operand
(30_encoding.md R71, R88). -/
def Obligations.DecodeInvertsEncode : Prop := ∀ i : Instr, decode (encode i) = .ok i

/-- A word that decodes is the word of what it decodes to: no bit of a word is ignored (30_encoding.md R71, R83). -/
def Obligations.EncodeInvertsDecode : Prop := ∀ (w : CmdWord) (i : Instr), decode w = .ok i → encode i = w

/-- 30_encoding.md R83: a word decodes to the command of a row iff `w & mask = match` for that row; at most one row matches; if none
matches the command faults with `ILLEGAL` and changes nothing but `STATUS` and `STICKY`. `rowMatch` tells the rows apart. -/
def Obligations.DecodeFollowsTheOpcodeMap : Prop :=
  ∀ w : CmdWord,
    (∀ i, decode w = .ok i → w &&& i.rowMask = i.rowMatch) ∧
    (∀ i : Instr, w &&& i.rowMask = i.rowMatch → ∃ j, decode w = .ok j ∧ j.rowMatch = i.rowMatch) ∧
    (∀ i j : Instr, w &&& i.rowMask = i.rowMatch → w &&& j.rowMask = j.rowMatch → i.rowMatch = j.rowMatch) ∧
    ((∀ i : Instr, w &&& i.rowMask ≠ i.rowMatch) →
      ∀ (s : State) (d : BitVec s.cfg.wbus) (rest : List (Command s.cfg.wbus)),
        s.cmds = ⟨w, d⟩ :: rest → Faults (step s) { s with din := d, cmds := rest } 5)

/-- 60_exceptions.md R244: a command ends with `ILLEGAL` iff its word does not decode or fails a check of R84, whatever the registers
and `DIN` hold, and then nothing but `STATUS` and `STICKY` changes. -/
def Obligations.IllegalExactlyForMalformedWords : Prop :=
  ∀ (s : State) (c : Command s.cfg.wbus) (rest : List (Command s.cfg.wbus)), s.cmds = c :: rest →
    ((∀ i, decode c.cw = .ok i → i.wellFormed s.cfg.wbus = false) →
      Faults (step s) { s with din := c.din, cmds := rest } 5) ∧
    (∀ i, decode c.cw = .ok i → i.wellFormed s.cfg.wbus = true →
      ∃ t, step s = .next t ∧ t.status ≠ 5)

/-! ## Storage and access -/

/-- 40_storage_access.md R101 and R102: `CLR` and `MOV` complete from every state; `CLR` clears `rd`, `MOV` copies `rs1` to it, and
nothing else changes. -/
def Obligations.ClrAndMovWriteTheRegister : Prop :=
  ∀ (s : State) (rd rs1 : Reg),
    decode (pack 0x01#6 rd.bits 0 0 0) = .ok (.clr rd) ∧
    decode (pack 0x02#6 rd.bits rs1.bits 0 0) = .ok (.mov rd rs1) ∧
    Writes (exec (.clr rd) s) s rd 0 ∧ Writes (exec (.mov rd rs1) s) s rd (s.x.get rs1)

/-- R107 and R108: `LDLOW` and `LDMAX` complete from every state; the values loaded are the sign bit alone and every bit but it, and
they bound every register. -/
def Obligations.LdlowAndLdmaxLoadTheExtremes : Prop :=
  ∀ (s : State) (rd : Reg),
    decode (pack 0x07#6 rd.bits 0 0 0) = .ok (.ldlow rd) ∧ decode (pack 0x08#6 rd.bits 0 0 0) = .ok (.ldmax rd) ∧
    ∃ lo hi : BitVec s.cfg.n,
      Writes (exec (.ldlow rd) s) s rd lo ∧ Writes (exec (.ldmax rd) s) s rd hi ∧
      (∀ j, j < s.cfg.n → lo.getLsbD j = decide (j = s.cfg.n - 1) ∧ hi.getLsbD j = decide (j ≠ s.cfg.n - 1)) ∧
      ∀ r, lo.toInt ≤ (s.reg r).toInt ∧ (s.reg r).toInt ≤ hi.toInt

/-- R103: `GETBYTE` puts byte `idx` on `DOUT` when `idx < byteCount`, and faults with `IndexOutOfRange` otherwise. -/
def Obligations.GetbyteReadsOneByte : Prop :=
  ∀ (s : State) (rs1 : Reg) (idx : Imm),
    decode (pack 0x03#6 0 rs1.bits 0 idx) = .ok (.getbyte rs1 idx) ∧
    (idx.toNat < (s.cfg.n + 7) / 8 → ∃ d, Shows (exec (.getbyte rs1 idx) s) s d ∧
      d.toNat = (s.reg rs1).toNat / 2 ^ (8 * idx.toNat) % 256) ∧
    ((s.cfg.n + 7) / 8 ≤ idx.toNat → Faults (exec (.getbyte rs1 idx) s) s 2)

/-- R104: `SETBYTE` replaces the bits of byte `idx` that exist by those of `DIN[7:0]` when `idx < byteCount`, and faults with
`IndexOutOfRange` otherwise. -/
def Obligations.SetbyteReplacesOneByte : Prop :=
  ∀ (s : State) (rd : Reg) (idx : Imm),
    decode (pack 0x04#6 rd.bits 0 0 idx) = .ok (.setbyte rd idx) ∧
    (idx.toNat < (s.cfg.n + 7) / 8 → ∃ v, Writes (exec (.setbyte rd idx) s) s rd v ∧
      ∀ j, j < s.cfg.n → v.getLsbD j =
        if 8 * idx.toNat ≤ j ∧ j < 8 * idx.toNat + 8 then s.din.getLsbD (j - 8 * idx.toNat) else (s.reg rd).getLsbD j) ∧
    ((s.cfg.n + 7) / 8 ≤ idx.toNat → Faults (exec (.setbyte rd idx) s) s 2)

/-- R105: `GETBIT` puts bit `idx` on `DOUT` when `idx < N`, and faults with `IndexOutOfRange` otherwise. -/
def Obligations.GetbitReadsOneBit : Prop :=
  ∀ (s : State) (rs1 : Reg) (idx : Imm),
    decode (pack 0x05#6 0 rs1.bits 0 idx) = .ok (.getbit rs1 idx) ∧
    (idx.toNat < s.cfg.n → ∃ d, Shows (exec (.getbit rs1 idx) s) s d ∧
      d.toNat = (s.reg rs1).toNat / 2 ^ idx.toNat % 2) ∧
    (s.cfg.n ≤ idx.toNat → Faults (exec (.getbit rs1 idx) s) s 2)

/-- R106: `SETBIT` replaces bit `idx` by `DIN[0]` when `idx < N`, and faults with `IndexOutOfRange` otherwise. -/
def Obligations.SetbitReplacesOneBit : Prop :=
  ∀ (s : State) (rd : Reg) (idx : Imm),
    decode (pack 0x06#6 rd.bits 0 0 idx) = .ok (.setbit rd idx) ∧
    (idx.toNat < s.cfg.n → ∃ v, Writes (exec (.setbit rd idx) s) s rd v ∧
      ∀ j, j < s.cfg.n → v.getLsbD j = if j = idx.toNat then s.din.getLsbD 0 else (s.reg rd).getLsbD j) ∧
    (s.cfg.n ≤ idx.toNat → Faults (exec (.setbit rd idx) s) s 2)

/-! ## Sign and magnitude -/

/-- 41_sign_magnitude.md R121: `TST` completes from every state and writes `NEG`, `POS`, `LOW`, `MAX` and no other bit. -/
def Obligations.TstWritesTheFourPredicates : Prop :=
  ∀ (s : State) (rs1 : Reg),
    decode (pack 0x10#6 0 rs1.bits 0 0) = .ok (.tst rs1) ∧
    ∃ fl, WritesFlags (exec (.tst rs1) s) s fl ∧
      fl.getLsbD 0 = (s.reg rs1).getLsbD (s.cfg.n - 1) ∧ fl.getLsbD 1 = !(s.reg rs1).getLsbD (s.cfg.n - 1) ∧
      fl.getLsbD 2 = decide ((s.reg rs1).toInt = -2 ^ (s.cfg.n - 1)) ∧
      fl.getLsbD 3 = decide ((s.reg rs1).toInt = 2 ^ (s.cfg.n - 1) - 1) ∧
      ∀ j, 4 ≤ j → fl.getLsbD j = s.flags.getLsbD j

/-- R122: `NEG` completes from every state with `trunc_N(2^N - u(x))`. -/
def Obligations.NegWritesTheComplement : Prop :=
  ∀ (s : State) (rd rs1 : Reg),
    decode (pack 0x11#6 rd.bits rs1.bits 0 0) = .ok (.neg rd rs1) ∧
    ∃ v, Writes (exec (.neg rd rs1) s) s rd v ∧ v.toNat = (2 ^ s.cfg.n - (s.reg rs1).toNat) % 2 ^ s.cfg.n

/-- R123: `SEXT` replicates bit `f` into all higher positions when `f < N`, and faults with `IndexOutOfRange` otherwise. -/
def Obligations.SextReplicatesTheBit : Prop :=
  ∀ (s : State) (rd rs1 : Reg) (f : Imm),
    decode (pack 0x12#6 rd.bits rs1.bits 0 f) = .ok (.sext rd rs1 f) ∧
    (f.toNat < s.cfg.n → ∃ v, Writes (exec (.sext rd rs1 f) s) s rd v ∧
      ∀ j, j < s.cfg.n → v.getLsbD j = (s.reg rs1).getLsbD (min j f.toNat)) ∧
    (s.cfg.n ≤ f.toNat → Faults (exec (.sext rd rs1 f) s) s 2)

/-- R124: `FSB` completes from every state; for zero it sets `NONE` and `DOUT` to all ones, else it clears `NONE` and `DOUT` is the
index of the highest 1; no other flag changes. -/
def Obligations.FsbFindsTheHighestBit : Prop :=
  ∀ (s : State) (rs1 : Reg),
    decode (pack 0x13#6 0 rs1.bits 0 0) = .ok (.fsb rs1) ∧
    ∃ fl d, exec (.fsb rs1) s = .next { s with flags := fl, dout := d, status := 0 } ∧
      (∀ j, j < 7 → fl.getLsbD j = s.flags.getLsbD j) ∧
      ((s.reg rs1).toNat = 0 → fl.getLsbD 7 = true ∧ d.toNat = 2 ^ s.cfg.wbus - 1) ∧
      ((s.reg rs1).toNat ≠ 0 → fl.getLsbD 7 = false ∧ (s.reg rs1).getLsbD d.toNat = true ∧
        ∀ j, d.toNat < j → (s.reg rs1).getLsbD j = false)

/-! ## Add, subtract, multiply -/

/-- 42_add_sub.md R142: `ADD` completes from every state with the sum modulo `2^N`. -/
def Obligations.AddWritesTheSum : Prop :=
  ∀ (s : State) (rd rs1 rs2 : Reg),
    decode (pack 0x18#6 rd.bits rs1.bits rs2.bits 0) = .ok (.add rd rs1 rs2) ∧
    ∃ v, Writes (exec (.add rd rs1 rs2) s) s rd v ∧
      v.toNat = ((s.reg rs1).toNat + (s.reg rs2).toNat) % 2 ^ s.cfg.n

/-- R143: `SUB` completes from every state with the difference modulo `2^N`. -/
def Obligations.SubWritesTheDifference : Prop :=
  ∀ (s : State) (rd rs1 rs2 : Reg),
    decode (pack 0x19#6 rd.bits rs1.bits rs2.bits 0) = .ok (.sub rd rs1 rs2) ∧
    ∃ v, Writes (exec (.sub rd rs1 rs2) s) s rd v ∧
      (v.toNat : Int) = (((s.reg rs1).toNat : Int) - (s.reg rs2).toNat) % 2 ^ s.cfg.n

/-- R144 and R145: `INC` and `DEC` complete from every state with `x + 1` and `x - 1` modulo `2^N`; the decrement of zero is all
ones (90_conflicts.md C1). -/
def Obligations.IncAndDecWrapAround : Prop :=
  ∀ (s : State) (rd rs1 : Reg),
    decode (pack 0x1A#6 rd.bits rs1.bits 0 0) = .ok (.inc rd rs1) ∧
    decode (pack 0x1B#6 rd.bits rs1.bits 0 0) = .ok (.dec rd rs1) ∧
    ∃ v w, Writes (exec (.inc rd rs1) s) s rd v ∧ Writes (exec (.dec rd rs1) s) s rd w ∧
      v.toNat = ((s.reg rs1).toNat + 1) % 2 ^ s.cfg.n ∧
      (w.toNat : Int) = (((s.reg rs1).toNat : Int) - 1) % 2 ^ s.cfg.n ∧
      ((s.reg rs1).toNat = 0 → ∀ j, j < s.cfg.n → w.getLsbD j = true)

/-- 43_multiply.md R162: `MUL` completes from every state with the signed product modulo `2^N`. -/
def Obligations.MulWritesTheWrappedProduct : Prop :=
  ∀ (s : State) (rd rs1 rs2 : Reg),
    decode (pack 0x20#6 rd.bits rs1.bits rs2.bits 0) = .ok (.mul rd rs1 rs2) ∧
    ∃ v, Writes (exec (.mul rd rs1 rs2) s) s rd v ∧
      (v.toNat : Int) = (s.reg rs1).toInt * (s.reg rs2).toInt % 2 ^ s.cfg.n

/-! ## Divide -/

/-- 44_divide.md R175: `DIV` writes the quotient rounded toward zero, modulo `2^N`, when the divisor is not zero, and faults with
`DivideByZero` otherwise. -/
def Obligations.DivWritesTheTruncatedQuotient : Prop :=
  ∀ (s : State) (rd rs1 rs2 : Reg),
    decode (pack 0x24#6 rd.bits rs1.bits rs2.bits 0) = .ok (.div rd rs1 rs2) ∧
    ((s.reg rs2).toNat ≠ 0 → ∃ v, Writes (exec (.div rd rs1 rs2) s) s rd v ∧
      (v.toNat : Int) = (s.reg rs1).toInt.tdiv (s.reg rs2).toInt % 2 ^ s.cfg.n) ∧
    ((s.reg rs2).toNat = 0 → Faults (exec (.div rd rs1 rs2) s) s 1)

/-- R176: `MOD` writes the remainder of the division that rounds toward zero, so with the dividend's sign, when the divisor is not
zero, and faults with `DivideByZero` otherwise. -/
def Obligations.ModWritesTheDividendSignedRemainder : Prop :=
  ∀ (s : State) (rd rs1 rs2 : Reg),
    decode (pack 0x25#6 rd.bits rs1.bits rs2.bits 0) = .ok (.mod rd rs1 rs2) ∧
    ((s.reg rs2).toNat ≠ 0 → ∃ v, Writes (exec (.mod rd rs1 rs2) s) s rd v ∧
      v.toInt = (s.reg rs1).toInt.tmod (s.reg rs2).toInt) ∧
    ((s.reg rs2).toNat = 0 → Faults (exec (.mod rd rs1 rs2) s) s 1)

/-- R177 and R178: `DIVMOD` with different destinations writes quotient and remainder together, or faults with `DivideByZero`; with
equal destinations it faults with `ILLEGAL`, whatever the operands. -/
def Obligations.DivmodWritesBothResults : Prop :=
  ∀ (s : State) (rd rd2 rs1 rs2 : Reg),
    decode (pack 0x26#6 rd.bits rs1.bits rs2.bits (0#13 ++ rd2.bits)) = .ok (.divmod rd rd2 rs1 rs2) ∧
    (rd ≠ rd2 → (s.reg rs2).toNat ≠ 0 → ∃ q v, WritesBoth (exec (.divmod rd rd2 rs1 rs2) s) s rd q rd2 v ∧
      (q.toNat : Int) = (s.reg rs1).toInt.tdiv (s.reg rs2).toInt % 2 ^ s.cfg.n ∧
      v.toInt = (s.reg rs1).toInt.tmod (s.reg rs2).toInt) ∧
    (rd ≠ rd2 → (s.reg rs2).toNat = 0 → Faults (exec (.divmod rd rd2 rs1 rs2) s) s 1) ∧
    (rd = rd2 → Faults (exec (.divmod rd rd2 rs1 rs2) s) s 5)

/-- R180: for a divisor that is not zero, `x = quotient*y + remainder` modulo `2^N`, the remainder is zero or has the sign of `x`,
its magnitude is below the divisor's, and `DIV`, `MOD` and `DIVMOD` agree. -/
def Obligations.DivisionIdentity : Prop :=
  ∀ (s : State) (rd rd2 rs1 rs2 : Reg), rd ≠ rd2 → (s.reg rs2).toNat ≠ 0 →
    ∃ q v : BitVec s.cfg.n,
      Writes (exec (.div rd rs1 rs2) s) s rd q ∧ Writes (exec (.mod rd2 rs1 rs2) s) s rd2 v ∧
      WritesBoth (exec (.divmod rd rd2 rs1 rs2) s) s rd q rd2 v ∧
      q * s.reg rs2 + v = s.reg rs1 ∧
      (v.toNat = 0 ∨ v.msb = (s.reg rs1).msb) ∧
      v.toInt.natAbs < (s.reg rs2).toInt.natAbs

/-! ## Bitwise, shift, compare -/

/-- 45_bitwise_shift.md R191, R192, R193: `AND`, `OR` and `XOR` complete from every state and act bit by bit. -/
def Obligations.LogicActsBitByBit : Prop :=
  ∀ (s : State) (rd rs1 rs2 : Reg),
    decode (pack 0x28#6 rd.bits rs1.bits rs2.bits 0) = .ok (.and rd rs1 rs2) ∧
    decode (pack 0x29#6 rd.bits rs1.bits rs2.bits 0) = .ok (.or rd rs1 rs2) ∧
    decode (pack 0x2A#6 rd.bits rs1.bits rs2.bits 0) = .ok (.xor rd rs1 rs2) ∧
    ∃ a o e : BitVec s.cfg.n,
      Writes (exec (.and rd rs1 rs2) s) s rd a ∧ Writes (exec (.or rd rs1 rs2) s) s rd o ∧
      Writes (exec (.xor rd rs1 rs2) s) s rd e ∧
      ∀ j, j < s.cfg.n →
        a.getLsbD j = ((s.reg rs1).getLsbD j && (s.reg rs2).getLsbD j) ∧
        o.getLsbD j = ((s.reg rs1).getLsbD j || (s.reg rs2).getLsbD j) ∧
        e.getLsbD j = ((s.reg rs1).getLsbD j != (s.reg rs2).getLsbD j)

/-- R195 and R196: `SHL` and `SHR` complete from every state and for every count with `u(x) * 2^k` modulo `2^N` and
`floor(u(x) / 2^k)`, which are `k` repetitions of the one-bit shifts of R194. -/
def Obligations.ShiftsRepeatTheOneBitShift : Prop :=
  ∀ (s : State) (rd rs1 : Reg) (k : Imm),
    decode (pack 0x2B#6 rd.bits rs1.bits 0 k) = .ok (.shl rd rs1 k) ∧
    decode (pack 0x2C#6 rd.bits rs1.bits 0 k) = .ok (.shr rd rs1 k) ∧
    ∃ l r : BitVec s.cfg.n, Writes (exec (.shl rd rs1 k) s) s rd l ∧ Writes (exec (.shr rd rs1 k) s) s rd r ∧
      l.toNat = (s.reg rs1).toNat * 2 ^ k.toNat % 2 ^ s.cfg.n ∧ l = repeatShift shl1 k.toNat (s.reg rs1) ∧
      r.toNat = (s.reg rs1).toNat / 2 ^ k.toNat ∧ r = repeatShift shr1 k.toNat (s.reg rs1)

/-- R197: `SHR rd, rs1, #k` then `SEXT rd, rd, #(N-1-k)` is the arithmetic right shift, `0 <= k <= N-1`. -/
def Obligations.ArithmeticShiftInTwoCommands : Prop :=
  ∀ (s : State) (rd rs1 : Reg) (k f : Imm), k.toNat + f.toNat = s.cfg.n - 1 →
    ∃ t u, exec (.shr rd rs1 k) s = .next t ∧ exec (.sext rd rd f) t = .next u ∧
      ((u.reg rd).toNat : Int) = (s.reg rs1).toInt / 2 ^ k.toNat % 2 ^ s.cfg.n

/-- 46_compare.md R212: `CMP` completes from every state and writes `LT`, `EQ`, `GT` from the signed order and no other bit. -/
def Obligations.CmpWritesTheSignedOrder : Prop :=
  ∀ (s : State) (rs1 rs2 : Reg),
    decode (pack 0x30#6 0 rs1.bits rs2.bits 0) = .ok (.cmp rs1 rs2) ∧
    ∃ fl, WritesFlags (exec (.cmp rs1 rs2) s) s fl ∧
      fl.getLsbD 4 = decide ((s.reg rs1).toInt < (s.reg rs2).toInt) ∧
      fl.getLsbD 5 = decide ((s.reg rs1).toInt = (s.reg rs2).toInt) ∧
      fl.getLsbD 6 = decide ((s.reg rs2).toInt < (s.reg rs1).toInt) ∧
      ∀ j, j < 4 ∨ j = 7 → fl.getLsbD j = s.flags.getLsbD j

/-! ## Width cast -/

/-- 47_width_cast.md R222: `CASTIN` with a width `S` in `1..WBUS` loads `trunc_N(s_S(DIN[S-1:0]))`; another width is `ILLEGAL`. The
signed reading of the low `S` bits is written out: `u` or `u - 2^S`. -/
def Obligations.CastinLoadsTheTruncatedSignedValue : Prop :=
  ∀ (s : State) (rd : Reg) (width : Imm),
    decode (pack 0x38#6 rd.bits 0 0 width) = .ok (.castin rd width) ∧
    (1 ≤ width.toNat → width.toNat ≤ s.cfg.wbus →
      ∃ v, Writes (exec (.castin rd width) s) s rd v ∧
        (v.toNat : Int) = (if s.din.getLsbD (width.toNat - 1) then ((s.din.toNat % 2 ^ width.toNat : Nat) : Int) - 2 ^ width.toNat
          else ((s.din.toNat % 2 ^ width.toNat : Nat) : Int)) % 2 ^ s.cfg.n) ∧
    (width.toNat = 0 ∨ s.cfg.wbus < width.toNat → Faults (exec (.castin rd width) s) s 5)

/-- R223: `CASTOUT` with a width `T` in `1..WBUS` puts `trunc_T(s(x))` on `DOUT` with zeros above it; another width is `ILLEGAL`. -/
def Obligations.CastoutShowsTheTruncatedSignedValue : Prop :=
  ∀ (s : State) (rs1 : Reg) (width : Imm),
    decode (pack 0x39#6 0 rs1.bits 0 width) = .ok (.castout rs1 width) ∧
    (1 ≤ width.toNat → width.toNat ≤ s.cfg.wbus →
      ∃ d, Shows (exec (.castout rs1 width) s) s d ∧ (d.toNat : Int) = (s.reg rs1).toInt % 2 ^ width.toNat) ∧
    (width.toNat = 0 ∨ s.cfg.wbus < width.toNat → Faults (exec (.castout rs1 width) s) s 5)

/-- R224: `LDNC` with a native width loads the signed value on `DIN` when `N` signed bits hold it, and faults with
`NarrowingOverflow` when they do not, that is when casting to `N` bits and back changes the data; another width is `ILLEGAL`. -/
def Obligations.LdncLoadsOnlyWhatFits : Prop :=
  ∀ (s : State) (rd : Reg) (width : Imm),
    decode (pack 0x3A#6 rd.bits 0 0 width) = .ok (.ldnc rd width) ∧
    (width.toNat ∈ [8, 16, 32, 64] →
      ∀ k : Int, k = (if s.din.getLsbD (width.toNat - 1) then ((s.din.toNat % 2 ^ width.toNat : Nat) : Int) - 2 ^ width.toNat
          else ((s.din.toNat % 2 ^ width.toNat : Nat) : Int)) →
        (-2 ^ (s.cfg.n - 1) ≤ k ∧ k ≤ 2 ^ (s.cfg.n - 1) - 1 →
          ∃ v, Writes (exec (.ldnc rd width) s) s rd v ∧ v.toInt = k) ∧
        (k < -2 ^ (s.cfg.n - 1) ∨ 2 ^ (s.cfg.n - 1) - 1 < k → Faults (exec (.ldnc rd width) s) s 3) ∧
        (castOf width.toNat (castOf s.cfg.n (s.dinLow width.toNat)) = s.dinLow width.toNat ↔
          -2 ^ (s.cfg.n - 1) ≤ k ∧ k ≤ 2 ^ (s.cfg.n - 1) - 1)) ∧
    (width.toNat ∉ [8, 16, 32, 64] → Faults (exec (.ldnc rd width) s) s 5)

/-- R225: the laws of the cast: widening keeps the number, narrowing keeps the low bits, widening and narrowing back is the
identity, and the lowest value widens to `-2^(S-1)` and narrows to zero. -/
def Obligations.CastLaws : Prop :=
  ∀ (w t : Nat) (v : BitVec w), 1 ≤ w → 1 ≤ t →
    (w ≤ t → (castOf t v).toInt = v.toInt ∧ castOf w (castOf t v) = v ∧ (castOf t (lowest w)).toInt = -2 ^ (w - 1)) ∧
    (t < w → (castOf t v).toNat = v.toNat % 2 ^ t ∧ (castOf t (lowest w)).toNat = 0)

/-- R220, R225 (c): a register cast out to a width `T >= N` and cast in again from what `DOUT` shows is the register, in the same
block. -/
def Obligations.CastOutThenInReturnsTheValue : Prop :=
  ∀ (s : State) (rd rs1 : Reg) (width : Imm), s.cfg.n ≤ width.toNat → width.toNat ≤ s.cfg.wbus →
    ∃ t u, exec (.castout rs1 width) s = .next t ∧ exec (.castin rd width) { t with din := t.dout } = .next u ∧
      (u.reg rd).toNat = (s.reg rs1).toNat

/-! ## The source's algorithms compute the closed forms the machine uses -/

/-- 00_scope.md R12: the bytes of a value, each times `2^(8i)`, add up to it. -/
def Obligations.BytesAddUpToTheValue : Prop :=
  ∀ (n : Nat) (x : BitVec n), fromBytes (fun i => (byteOf x i).toNat) (byteCount n) = x.toNat

/-- 10_state.md R22, 20_memory.md R51: the top byte of every value has no bit outside `topMask`, and `topMask` is made of the sign
bit and `unsignedMask` (00_scope.md R6). -/
def Obligations.TopByteStaysInsideItsMask : Prop :=
  ∀ (n : Nat) (x : BitVec n), 1 ≤ n →
    byteOf x (byteCount n - 1) &&& topMask n = byteOf x (byteCount n - 1) ∧
    ((byteOf x (byteCount n - 1) &&& signMask n = signMask n) ↔ x.msb = true) ∧
    signMask n ||| unsignedMask n = topMask n ∧ signMask n &&& unsignedMask n = 0

/-- 42_add_sub.md R141: the byte-wise adder with carry propagation computes `trunc_N(u(a) + u(b))`. -/
def Obligations.ByteAdderComputesTheSum : Prop :=
  ∀ (n : Nat) (a b : BitVec n), (addBytes a b).toNat = (a.toNat + b.toNat) % 2 ^ n ∧ addBytes a b = addOf a b

/-- 00_scope.md R14: NOT of every byte plus 1 is `trunc_N(2^N - u(x))`; applied twice it is the identity; the lowest value is its own
complement. -/
def Obligations.ByteNotPlusOneIsTheComplement : Prop :=
  ∀ (n : Nat) (x : BitVec n),
    (complementBytes x).toNat = (2 ^ n - x.toNat) % 2 ^ n ∧ complementBytes x = complement x ∧
    complementBytes (complementBytes x) = x ∧ complementBytes (lowest n) = lowest n

/-- 42_add_sub.md R144, R145: increment and decrement with propagation limited to the bytes that change compute `x + 1` and
`x - 1`. -/
def Obligations.LimitedCarryComputesIncAndDec : Prop :=
  ∀ (n : Nat) (x : BitVec n), incBytes x = addOf x (BitVec.ofNat n 1) ∧ decBytes x = subOf x (BitVec.ofNat n 1)

/-- 00_scope.md R15: the magnitude pattern read as unsigned is the absolute value, also for the lowest value. -/
def Obligations.MagnitudeIsTheAbsoluteValue : Prop :=
  ∀ (n : Nat) (x : BitVec n), 1 ≤ n → (mag x).toNat = x.toInt.natAbs

/-- 43_multiply.md R161, R163: shift-and-add on magnitudes computes the low `N` bits of the product, signed or unsigned. -/
def Obligations.ShiftAndAddComputesTheProduct : Prop :=
  ∀ (n : Nat) (a b : BitVec n),
    ((mulShiftAdd a b).toNat : Int) = a.toInt * b.toInt % 2 ^ n ∧
    (mulShiftAdd a b).toNat = a.toNat * b.toNat % 2 ^ n ∧ mulShiftAdd a b = mulOf a b

/-- 44_divide.md R172: restoring long division of magnitudes computes quotient and remainder of the unsigned readings. -/
def Obligations.LongDivisionComputesQuotientAndRemainder : Prop :=
  ∀ (n : Nat) (d v : BitVec n), v ≠ 0 →
    (udivmodLong d v).1.toNat = d.toNat / v.toNat ∧ (udivmodLong d v).2.toNat = d.toNat % v.toNat ∧
    udivmodLong d v = udivmod d v

/-- 46_compare.md R211: sign bits first, then bytes from the top down as unsigned numbers, is the signed order. -/
def Obligations.ByteComparisonIsTheSignedOrder : Prop :=
  ∀ (n : Nat) (a b : BitVec n),
    (compareBytes a b = .lt ↔ a.toInt < b.toInt) ∧ (compareBytes a b = .eq ↔ a = b) ∧
    (compareBytes a b = .gt ↔ b.toInt < a.toInt) ∧ compareBytes a b = compareOf a b

/-- 47_width_cast.md R221: copying the overlapping bytes, sign-extending when widening and truncating computes `trunc_T(s_S(v))`. -/
def Obligations.ByteCastIsTheTruncatedSignedReading : Prop :=
  ∀ (w t : Nat) (v : BitVec w), 1 ≤ w → 1 ≤ t →
    ((castBytes t v).toNat : Int) = v.toInt % 2 ^ t ∧ castBytes t v = castOf t v

/-! ## Laws over several commands -/

/-- R146 (a): `ADD` then `SUB` of the same operand gives the first operand back, through every wrap. -/
def Obligations.AddThenSubRestores : Prop :=
  ∀ (s : State) (r1 r2 ra rb : Reg), r1 ≠ rb →
    ∃ t u, exec (.add r1 ra rb) s = .next t ∧ exec (.sub r2 r1 rb) t = .next u ∧
      (u.reg r2).toNat = (s.reg ra).toNat

/-- 20_memory.md R53: after `SETBYTE rd, #i`, `GETBIT rd, #(8i+k)` shows bit `k` of the byte stored and `GETBYTE rd, #i` its bits that
exist. -/
def Obligations.StoredByteIsReadBack : Prop :=
  ∀ (s : State) (rd : Reg) (i j : Imm) (k : Nat), k < 8 → j.toNat = 8 * i.toNat + k → j.toNat < s.cfg.n →
    ∃ t u v, exec (.setbyte rd i) s = .next t ∧ exec (.getbit rd j) t = .next u ∧ exec (.getbyte rd i) t = .next v ∧
      u.dout.toNat = s.din.toNat / 2 ^ k % 2 ∧
      v.dout.toNat = s.din.toNat % 2 ^ min 8 (s.cfg.n - 8 * i.toNat)

/-- 40_storage_access.md R109: `CLR` and one `SETBYTE` a byte build the value of a byte list, low byte first; a byte beyond
`byteCount` faults with `IndexOutOfRange` and the bytes already written stay. -/
def Obligations.ByteListBuildsItsValue : Prop :=
  ∀ (s : State) (rd : Reg) (bytes : List (BitVec 8)), s.cmds = ldbytes s.cfg.wbus rd bytes → bytes.length ≤ 65536 →
    ∃ t, Sys2Proof.core.run (bytes.length + 1) s = .next t ∧
      (State.reg t rd).toNat = listValue (bytes.take ((s.cfg.n + 7) / 8)) % 2 ^ s.cfg.n ∧
      (bytes.length ≤ (s.cfg.n + 7) / 8 → State.status t = 0 ∧ State.sticky t = s.sticky) ∧
      ((s.cfg.n + 7) / 8 < bytes.length → State.status t = 2 ∧ State.sticky t = if s.sticky = 0 then 2 else s.sticky)

/-! ## Rules of the whole machine -/

/-- 10_state.md R35, 70_reset_and_hazards.md R270, R272, R274: the reset edge leaves every register, `FLAGS`, `DOUT`, `STATUS` and
`STICKY` zero whatever the state was, keeps the parameters, and shows what the reset state of that block shows; `State.reset` is
such a state. -/
def Obligations.ResetLeavesEverythingZero : Prop :=
  (∀ s : State,
    (∀ r, s.rst.reg r = 0) ∧ s.rst.flags = 0 ∧ s.rst.dout = 0 ∧ s.rst.status = 0 ∧ s.rst.sticky = 0 ∧
    s.rst.cfg = s.cfg ∧ SameArch s.rst (State.resetAt s.cfg)) ∧
  ∃ c, State.reset = State.resetAt c

/-- 00_scope.md R16, 60_exceptions.md R250, R251: from every state a step answers a next state; the parameters stay and the command at
the head of the host's list is used up. -/
def Obligations.StepIsTotal : Prop :=
  ∀ s : State, ∃ t, step s = .next t ∧ t.cfg = s.cfg ∧ t.pending = s.pending.tail

/-- R16: a run uses up the host's list in order, one command a step, and never stops. -/
def Obligations.RunUsesUpTheCommandList : Prop :=
  ∀ (k : Nat) (s : State), ∃ t, Sys2Proof.core.run k s = .next t ∧ State.cfg t = s.cfg ∧ State.pending t = s.pending.drop k

/-- 60_exceptions.md R248: a command that ends with a code writes `STATUS`, and `STICKY` if that was 0, and nothing else. -/
def Obligations.FaultChangesOnlyStatusAndSticky : Prop :=
  ∀ (s t : State) (c : Command s.cfg.wbus) (rest : List (Command s.cfg.wbus)),
    s.cmds = c :: rest → step s = .next t → t.status ≠ 0 →
      t = { s with din := c.din, cmds := rest, status := t.status,
                   sticky := if s.sticky = 0 then t.status else s.sticky }

/-- 10_state.md R29: `STICKY` takes the code of a faulting command only if it was 0, no command clears it, and reset does. -/
def Obligations.StickyKeepsTheFirstFault : Prop :=
  (∀ (s t : State), s.cmds ≠ [] → step s = .next t → t.sticky = if s.sticky = 0 then t.status else s.sticky) ∧
  ∀ s : State, s.rst.sticky = 0

/-- 10_state.md R27: a step changes only the bits of `FLAGS` that its command owns (`TST` 3:0, `CMP` 6:4, `FSB` 7), and no command's
registers or codes depend on `FLAGS`. -/
def Obligations.FlagsHaveOwners : Prop :=
  (∀ (s t : State) (j : Nat), step s = .next t → t.flags.getLsbD j ≠ s.flags.getLsbD j →
    ∃ c rest i, s.cmds = c :: rest ∧ decode c.cw = .ok i ∧
      ((∃ r, i = .tst r ∧ j ≤ 3) ∨ (∃ a b, i = .cmp a b ∧ 4 ≤ j ∧ j ≤ 6) ∨ (∃ r, i = .fsb r ∧ j = 7))) ∧
  ∀ (s : State) (fl : BitVec 8) (i : Instr), ∃ t u, exec i s = .next t ∧ exec i { s with flags := fl } = .next u ∧
    (∀ r, (u.reg r).toNat = (t.reg r).toNat) ∧ u.dout.toNat = t.dout.toNat ∧ u.status = t.status ∧ u.sticky = t.sticky

/-- 10_state.md R34: a step changes `DOUT` only for `GETBYTE`, `GETBIT`, `FSB` and `CASTOUT` that do not fault, and no command reads
`DOUT`. -/
def Obligations.DoutHasOwners : Prop :=
  (∀ s t : State, step s = .next t → t.dout.toNat ≠ s.dout.toNat →
    ∃ c rest i, s.cmds = c :: rest ∧ decode c.cw = .ok i ∧ t.status = 0 ∧
      ((∃ r b, i = .getbyte r b) ∨ (∃ r b, i = .getbit r b) ∨ (∃ r, i = .fsb r) ∨ (∃ r w, i = .castout r w))) ∧
  ∀ (s : State) (d : BitVec s.cfg.wbus) (i : Instr), ∃ t u, exec i s = .next t ∧ exec i { s with dout := d } = .next u ∧
    (∀ r, (u.reg r).toNat = (t.reg r).toNat) ∧ u.flags = t.flags ∧ u.status = t.status ∧ u.sticky = t.sticky

/-- 10_state.md R23: a command changes no value register but its destinations, and what it does depends on no value register but its
sources. -/
def Obligations.RegistersReadAndWrittenAreTheListedOnes : Prop :=
  (∀ (s t : State) (i : Instr) (r : Reg), exec i s = .next t → (t.reg r).toNat ≠ (s.reg r).toNat → r ∈ destinations i) ∧
  ∀ (s : State) (y : Regs s.cfg.n) (i : Instr), (∀ r, r ∈ sources i → y.get r = s.x.get r) →
    ∃ t u, exec i s = .next t ∧ exec i { s with x := y } = .next u ∧
      u.flags = t.flags ∧ u.dout.toNat = t.dout.toNat ∧ u.status = t.status ∧ u.sticky = t.sticky ∧
      (t.status = 0 → ∀ r, r ∈ destinations i → (u.reg r).toNat = (t.reg r).toNat)

/-- 30_encoding.md R82: the bits of `DIN` above those a command uses may hold anything. -/
def Obligations.UnusedDataBitsAreIgnored : Prop :=
  ∀ (s : State) (d : BitVec s.cfg.wbus) (i : Instr), (∀ j, j < dinBits i → d.getLsbD j = s.din.getLsbD j) →
    ∃ t u, exec i s = .next t ∧ exec i { s with din := d } = .next u ∧ SameArch t u

/-- 10_state.md R31: a command that does not observe registers shows the host the same on its ports whatever the registers hold. -/
def Obligations.PortsHideTheRegisters : Prop :=
  ∀ (s : State) (y : Regs s.cfg.n) (i : Instr), observesRegisters i = false →
    ∃ t u, exec i s = .next t ∧ exec i { s with x := y } = .next u ∧
      (t.outputs.status, t.outputs.sticky, t.outputs.flags, t.outputs.dout.toNat) =
      (u.outputs.status, u.outputs.sticky, u.outputs.flags, u.outputs.dout.toNat)

/-- Every step keeps the legal states legal: the codes produced (10_state.md R28), no code without a recorded fault (R29), and the
flags as `TST` and `CMP` leave them (41_sign_magnitude.md R121 (c), 46_compare.md R212). -/
def Obligations.StepKeepsTheStateLegal : Prop := ∀ s t : State, s.Inv → step s = .next t → t.Inv

/-- The reset state of every block is legal, whatever the host presents (10_state.md R35). -/
def Obligations.ResetStateIsLegal : Prop :=
  ∀ (c : Config) (cmds : List (Command c.wbus)), ({ State.resetAt c with cmds := cmds } : State).Inv

/-- 10_state.md R29, 60_exceptions.md R250: if a run from a legal state ends with no fault recorded, then after every one of its steps
no fault was recorded and the command had completed. -/
def Obligations.RunWithoutFaultCompletesEveryCommand : Prop :=
  ∀ (s : State) (k : Nat) (t : State), s.Inv → Sys2Proof.core.run k s = .next t → t.noFault →
    ∀ j, j ≤ k → ∃ u, Sys2Proof.core.run j s = .next u ∧ State.noFault u ∧ State.status u = 0
end

