-- ==== Sys2Proof/Laws/Decode.lean ====
section
/-! SUPPORT. The fields of a packed word, and registers against their indices. -/

namespace Sys2Proof

@[simp] theorem Reg.ofBits_bits (r : Reg) : Reg.ofBits r.bits = r := by cases r <;> rfl

@[simp] theorem Reg.bits_ofBits (b : BitVec 3) : (Reg.ofBits b).bits = b := by revert b; decide

theorem Reg.bits_injective {r r' : Reg} (h : r.bits = r'.bits) : r = r' := by
  rw [← Reg.ofBits_bits r, h, Reg.ofBits_bits]

variable (op : BitVec 6) (rd rs1 rs2 : BitVec 3) (imm : Imm)

/-- The value of a packed word. -/
theorem pack_toNat : (pack op rd rs1 rs2 imm).toNat =
    op.toNat * 2 ^ 26 + rd.toNat * 2 ^ 23 + rs1.toNat * 2 ^ 20 + rs2.toNat * 2 ^ 17 + imm.toNat := by
  have h2 := rd.isLt; have h3 := rs1.isLt; have h4 := rs2.isLt; have h5 := imm.isLt
  simp only [pack, BitVec.toNat_append, Nat.shiftLeft_eq]
  rw [← Nat.shiftLeft_eq, ← Nat.shiftLeft_eq, ← Nat.shiftLeft_eq, ← Nat.shiftLeft_eq, ← Nat.shiftLeft_eq,
    ← Nat.shiftLeft_add_eq_or_of_lt h2, ← Nat.shiftLeft_add_eq_or_of_lt h3, ← Nat.shiftLeft_add_eq_or_of_lt h4,
    ← Nat.shiftLeft_add_eq_or_of_lt (by decide : (0#1).toNat < 2 ^ 1), ← Nat.shiftLeft_add_eq_or_of_lt h5]
  simp only [Nat.shiftLeft_eq, BitVec.toNat_ofNat]
  omega

@[simp] theorem opField_pack : opField (pack op rd rs1 rs2 imm) = op := by
  have h1 := op.isLt; have h2 := rd.isLt; have h3 := rs1.isLt; have h4 := rs2.isLt; have h5 := imm.isLt
  apply BitVec.eq_of_toNat_eq
  rw [opField, BitVec.extractLsb'_toNat, pack_toNat, Nat.shiftRight_eq_div_pow]; omega

@[simp] theorem rdField_pack : rdField (pack op rd rs1 rs2 imm) = rd := by
  have h1 := op.isLt; have h2 := rd.isLt; have h3 := rs1.isLt; have h4 := rs2.isLt; have h5 := imm.isLt
  apply BitVec.eq_of_toNat_eq
  rw [rdField, BitVec.extractLsb'_toNat, pack_toNat, Nat.shiftRight_eq_div_pow]; omega

@[simp] theorem rs1Field_pack : rs1Field (pack op rd rs1 rs2 imm) = rs1 := by
  have h1 := op.isLt; have h2 := rd.isLt; have h3 := rs1.isLt; have h4 := rs2.isLt; have h5 := imm.isLt
  apply BitVec.eq_of_toNat_eq
  rw [rs1Field, BitVec.extractLsb'_toNat, pack_toNat, Nat.shiftRight_eq_div_pow]; omega

@[simp] theorem rs2Field_pack : rs2Field (pack op rd rs1 rs2 imm) = rs2 := by
  have h1 := op.isLt; have h2 := rd.isLt; have h3 := rs1.isLt; have h4 := rs2.isLt; have h5 := imm.isLt
  apply BitVec.eq_of_toNat_eq
  rw [rs2Field, BitVec.extractLsb'_toNat, pack_toNat, Nat.shiftRight_eq_div_pow]; omega

@[simp] theorem zField_pack : zField (pack op rd rs1 rs2 imm) = 0 := by
  have h1 := op.isLt; have h2 := rd.isLt; have h3 := rs1.isLt; have h4 := rs2.isLt; have h5 := imm.isLt
  apply BitVec.eq_of_toNat_eq
  rw [zField, BitVec.extractLsb'_toNat, pack_toNat, Nat.shiftRight_eq_div_pow]; simp; omega

@[simp] theorem immField_pack : immField (pack op rd rs1 rs2 imm) = imm := by
  have h1 := op.isLt; have h2 := rd.isLt; have h3 := rs1.isLt; have h4 := rs2.isLt; have h5 := imm.isLt
  apply BitVec.eq_of_toNat_eq
  rw [immField, BitVec.extractLsb'_toNat, pack_toNat, Nat.shiftRight_eq_div_pow]; omega

/-- `DIVMOD`'s second destination is the low three bits of the immediate field. -/
@[simp] theorem rd2Field_pack : rd2Field (pack op rd rs1 rs2 imm) = imm.extractLsb' 0 3 := by
  have h1 := op.isLt; have h2 := rd.isLt; have h3 := rs1.isLt; have h4 := rs2.isLt; have h5 := imm.isLt
  apply BitVec.eq_of_toNat_eq
  rw [rd2Field, BitVec.extractLsb'_toNat, BitVec.extractLsb'_toNat, pack_toNat, Nat.shiftRight_eq_div_pow,
    Nat.shiftRight_eq_div_pow]
  omega

/-- The bits `DIVMOD` requires to be zero are the upper thirteen of the immediate field. -/
@[simp] theorem aboveRd2Field_pack : aboveRd2Field (pack op rd rs1 rs2 imm) = imm.extractLsb' 3 13 := by
  have h1 := op.isLt; have h2 := rd.isLt; have h3 := rs1.isLt; have h4 := rs2.isLt; have h5 := imm.isLt
  apply BitVec.eq_of_toNat_eq
  rw [aboveRd2Field, BitVec.extractLsb'_toNat, BitVec.extractLsb'_toNat, pack_toNat, Nat.shiftRight_eq_div_pow,
    Nat.shiftRight_eq_div_pow]
  omega

/-- A word with bit 16 clear is packed from its own fields. -/
theorem pack_fields {w : CmdWord} (hz : zField w = 0) :
    pack (opField w) (rdField w) (rs1Field w) (rs2Field w) (immField w) = w := by
  have hw := w.isLt
  have hz' : w.toNat / 2 ^ 16 % 2 ^ 1 = 0 := by
    have h := congrArg BitVec.toNat hz
    rw [zField, BitVec.extractLsb'_toNat, Nat.shiftRight_eq_div_pow] at h
    simpa using h
  apply BitVec.eq_of_toNat_eq
  rw [pack_toNat]
  simp only [opField, rdField, rs1Field, rs2Field, immField, BitVec.extractLsb'_toNat, Nat.shiftRight_eq_div_pow]
  omega

/-- A command accepted by a format check had its must-be-zero bits zero. -/
theorem ifZero_eq_ok {zero : Bool} {w : CmdWord} {i j : Instr} :
    ifZero zero w i = .ok j ↔ zero = true ∧ i = j := by
  cases zero <;> simp [ifZero]

end Sys2Proof
end

