-- ==== Sys2Proof/Laws/State.lean ====
section
/-! SUPPORT. Small lemmas of the state: reading a register after writing one, and every field after every update. -/

namespace Sys2Proof.Machine

variable {n : Nat}

@[simp] theorem Regs.get_set (f : Regs n) (r r' : Reg) (v : BitVec n) :
    (f.set r v).get r' = if r' = r then v else f.get r' := by
  cases r <;> cases r' <;> rfl

@[simp] theorem Regs.get_zero (r : Reg) : (Regs.zero n).get r = 0 := by cases r <;> rfl

/-- Two register files are equal when they read the same. -/
theorem Regs.ext_get {f g : Regs n} (h : ∀ r, f.get r = g.get r) : f = g := by
  cases f; cases g
  have h0 := h .x0; have h1 := h .x1; have h2 := h .x2; have h3 := h .x3
  have h4 := h .x4; have h5 := h .x5; have h6 := h .x6; have h7 := h .x7
  simp only [Regs.get] at h0 h1 h2 h3 h4 h5 h6 h7
  subst h0 h1 h2 h3 h4 h5 h6 h7
  rfl

theorem State.reg_eq (s : State) (r : Reg) : s.reg r = s.x.get r := rfl

@[simp] theorem State.setReg_cfg (s : State) (r : Reg) (v) : (s.setReg r v).cfg = s.cfg := rfl
@[simp] theorem State.setReg_x (s : State) (r : Reg) (v) : (s.setReg r v).x = s.x.set r v := rfl
@[simp] theorem State.setReg_flags (s : State) (r : Reg) (v) : (s.setReg r v).flags = s.flags := rfl
@[simp] theorem State.setReg_dout (s : State) (r : Reg) (v) : (s.setReg r v).dout = s.dout := rfl
@[simp] theorem State.setReg_status (s : State) (r : Reg) (v) : (s.setReg r v).status = s.status := rfl
@[simp] theorem State.setReg_sticky (s : State) (r : Reg) (v) : (s.setReg r v).sticky = s.sticky := rfl
@[simp] theorem State.setReg_din (s : State) (r : Reg) (v) : (s.setReg r v).din = s.din := rfl
@[simp] theorem State.setReg_cmds (s : State) (r : Reg) (v) : (s.setReg r v).cmds = s.cmds := rfl

@[simp] theorem State.setDout_cfg (s : State) (v) : (s.setDout v).cfg = s.cfg := rfl
@[simp] theorem State.setDout_x (s : State) (v) : (s.setDout v).x = s.x := rfl
@[simp] theorem State.setDout_flags (s : State) (v) : (s.setDout v).flags = s.flags := rfl
@[simp] theorem State.setDout_dout (s : State) (v) : (s.setDout v).dout = v := rfl
@[simp] theorem State.setDout_status (s : State) (v) : (s.setDout v).status = s.status := rfl
@[simp] theorem State.setDout_sticky (s : State) (v) : (s.setDout v).sticky = s.sticky := rfl
@[simp] theorem State.setDout_din (s : State) (v) : (s.setDout v).din = s.din := rfl
@[simp] theorem State.setDout_cmds (s : State) (v) : (s.setDout v).cmds = s.cmds := rfl

@[simp] theorem State.setFlags_cfg (s : State) (v) : (s.setFlags v).cfg = s.cfg := rfl
@[simp] theorem State.setFlags_x (s : State) (v) : (s.setFlags v).x = s.x := rfl
@[simp] theorem State.setFlags_flags (s : State) (v) : (s.setFlags v).flags = v := rfl
@[simp] theorem State.setFlags_dout (s : State) (v) : (s.setFlags v).dout = s.dout := rfl
@[simp] theorem State.setFlags_status (s : State) (v) : (s.setFlags v).status = s.status := rfl
@[simp] theorem State.setFlags_sticky (s : State) (v) : (s.setFlags v).sticky = s.sticky := rfl
@[simp] theorem State.setFlags_din (s : State) (v) : (s.setFlags v).din = s.din := rfl
@[simp] theorem State.setFlags_cmds (s : State) (v) : (s.setFlags v).cmds = s.cmds := rfl

@[simp] theorem complete_cfg (s : State) : (complete s).cfg = s.cfg := rfl
@[simp] theorem complete_x (s : State) : (complete s).x = s.x := rfl
@[simp] theorem complete_flags (s : State) : (complete s).flags = s.flags := rfl
@[simp] theorem complete_dout (s : State) : (complete s).dout = s.dout := rfl
@[simp] theorem complete_status (s : State) : (complete s).status = 0 := rfl
@[simp] theorem complete_sticky (s : State) : (complete s).sticky = s.sticky := rfl
@[simp] theorem complete_din (s : State) : (complete s).din = s.din := rfl
@[simp] theorem complete_cmds (s : State) : (complete s).cmds = s.cmds := rfl

@[simp] theorem raise_cfg (k : Kind) (s : State) : (raise k s).cfg = s.cfg := rfl
@[simp] theorem raise_x (k : Kind) (s : State) : (raise k s).x = s.x := rfl
@[simp] theorem raise_flags (k : Kind) (s : State) : (raise k s).flags = s.flags := rfl
@[simp] theorem raise_dout (k : Kind) (s : State) : (raise k s).dout = s.dout := rfl
@[simp] theorem raise_status (k : Kind) (s : State) : (raise k s).status = k.code := rfl
@[simp] theorem raise_sticky (k : Kind) (s : State) :
    (raise k s).sticky = if s.sticky = 0 then k.code else s.sticky := rfl
@[simp] theorem raise_din (k : Kind) (s : State) : (raise k s).din = s.din := rfl
@[simp] theorem raise_cmds (k : Kind) (s : State) : (raise k s).cmds = s.cmds := rfl

@[simp] theorem State.accept_cfg (s : State) (c rest) : (s.accept c rest).cfg = s.cfg := rfl
@[simp] theorem State.accept_x (s : State) (c rest) : (s.accept c rest).x = s.x := rfl
@[simp] theorem State.accept_flags (s : State) (c rest) : (s.accept c rest).flags = s.flags := rfl
@[simp] theorem State.accept_dout (s : State) (c rest) : (s.accept c rest).dout = s.dout := rfl
@[simp] theorem State.accept_status (s : State) (c rest) : (s.accept c rest).status = s.status := rfl
@[simp] theorem State.accept_sticky (s : State) (c rest) : (s.accept c rest).sticky = s.sticky := rfl
@[simp] theorem State.accept_din (s : State) (c rest) : (s.accept c rest).din = c.din := rfl
@[simp] theorem State.accept_cmds (s : State) (c rest) : (s.accept c rest).cmds = rest := rfl

@[simp] theorem State.rst_cfg (s : State) : s.rst.cfg = s.cfg := rfl
@[simp] theorem State.rst_x (s : State) : s.rst.x = Regs.zero s.cfg.n := rfl
@[simp] theorem State.rst_flags (s : State) : s.rst.flags = 0 := rfl
@[simp] theorem State.rst_dout (s : State) : s.rst.dout = 0 := rfl
@[simp] theorem State.rst_status (s : State) : s.rst.status = 0 := rfl
@[simp] theorem State.rst_sticky (s : State) : s.rst.sticky = 0 := rfl
@[simp] theorem State.rst_din (s : State) : s.rst.din = 0 := rfl
@[simp] theorem State.rst_cmds (s : State) : s.rst.cmds = s.cmds := rfl

end Sys2Proof.Machine
end

