-- ==== Sys2Proof/Laws/Ops.lean ====
section
/-! SUPPORT. One lemma for each shared operation, saying once everything it can do. -/

namespace Sys2Proof.Machine

/-- Completing answers the completed state and nothing else. -/
theorem done_eq_next {s t : State} : done s = .next t ↔ t = complete s := by
  simp [done, eq_comm]

/-- Faulting answers the state with the fault recorded and nothing else. -/
theorem fail_eq_next {k : Kind} {s t : State} : fail k s = .next t ↔ t = raise k s := by
  simp [fail, eq_comm]

/-- A completed register write writes that register and changes nothing else. -/
theorem done_setReg (s : State) (rd : Reg) (v : BitVec s.cfg.n) : Writes (done (s.setReg rd v)) s rd v :=
  ⟨s.x.set rd v, rfl, fun r => Regs.get_set s.x rd r v⟩

/-- A completed write of `DOUT` changes nothing else. -/
theorem done_setDout (s : State) (d : BitVec s.cfg.wbus) : Shows (done (s.setDout d)) s d := rfl

/-- A completed write of `FLAGS` changes nothing else. -/
theorem done_setFlags (s : State) (fl : BitVec 8) : WritesFlags (done (s.setFlags fl)) s fl := rfl

/-- A fault records its code and changes nothing else. -/
theorem fail_faults (k : Kind) (s : State) : Faults (fail k s) s k.code := rfl

theorem Kind.code_ne_zero (k : Kind) : k.code ≠ 0 := by cases k <;> decide

/-- Accepting a command changes the sampled data and the host's list only. -/
theorem State.accept_eq (s : State) (c : Command s.cfg.wbus) (rest : List (Command s.cfg.wbus)) :
    s.accept c rest = { s with din := c.din, cmds := rest } := rfl

theorem idle_eq (s : State) : idle s = .next s := rfl

/-- What accepting and executing a command comes to: the decoded command, or `ILLEGAL`. -/
theorem issue_cases (s : State) (c : Command s.cfg.wbus) (rest : List (Command s.cfg.wbus)) :
    (∃ i, decode c.cw = .ok i ∧ issue s c rest = exec i (s.accept c rest)) ∨
    (∃ e, decode c.cw = .error e ∧ issue s c rest = fail .illegal (s.accept c rest)) := by
  unfold issue
  split
  · exact .inl ⟨_, ‹_›, rfl⟩
  · exact .inr ⟨_, ‹_›, rfl⟩

/-- The two cases of a step. -/
theorem step_nil {s : State} (h : s.cmds = []) : step s = .next s := by
  unfold step; rw [h]; rfl

theorem step_cons {s : State} {c : Command s.cfg.wbus} {rest : List (Command s.cfg.wbus)} (h : s.cmds = c :: rest) :
    step s = issue s c rest := by
  unfold step; rw [h]

/-- Every command of the block answers a next state, of one of two forms: a fault of a kind this hardware produces, or a completion
that changes no more than registers, `FLAGS` and `DOUT`. -/
theorem exec_shape (i : Instr) (s : State) :
    (∃ k, k ≠ .invalidDigit ∧ exec i s = fail k s) ∨
    (∃ y fl d, exec i s = .next { s with x := y, flags := fl, dout := d, status := 0 }) := by
  have reg : ∀ (rd : Reg) (v : BitVec s.cfg.n), ∃ y fl d,
      done (s.setReg rd v) = .next { s with x := y, flags := fl, dout := d, status := 0 } :=
    fun rd v => ⟨_, _, _, rfl⟩
  have dout : ∀ v : BitVec s.cfg.wbus, ∃ y fl d,
      done (s.setDout v) = .next { s with x := y, flags := fl, dout := d, status := 0 } :=
    fun v => ⟨_, _, _, rfl⟩
  cases i with
  | clr rd => exact .inr (reg _ _)
  | mov rd rs1 => exact .inr (reg _ _)
  | getbyte rs1 idx =>
    by_cases h : byteCount s.cfg.n ≤ idx.toNat
    · exact .inl ⟨.indexOutOfRange, by decide, by simp [exec, execGetbyte, h]⟩
    · exact .inr (by simpa [exec, execGetbyte, h] using dout _)
  | setbyte rd idx =>
    by_cases h : byteCount s.cfg.n ≤ idx.toNat
    · exact .inl ⟨.indexOutOfRange, by decide, by simp [exec, execSetbyte, h]⟩
    · exact .inr (by simpa [exec, execSetbyte, h] using reg _ _)
  | getbit rs1 idx =>
    by_cases h : s.cfg.n ≤ idx.toNat
    · exact .inl ⟨.indexOutOfRange, by decide, by simp [exec, execGetbit, h]⟩
    · exact .inr (by simpa [exec, execGetbit, h] using dout _)
  | setbit rd idx =>
    by_cases h : s.cfg.n ≤ idx.toNat
    · exact .inl ⟨.indexOutOfRange, by decide, by simp [exec, execSetbit, h]⟩
    · exact .inr (by simpa [exec, execSetbit, h] using reg _ _)
  | ldlow rd => exact .inr (reg _ _)
  | ldmax rd => exact .inr (reg _ _)
  | tst rs1 => exact .inr ⟨_, _, _, rfl⟩
  | neg rd rs1 => exact .inr (reg _ _)
  | sext rd rs1 f =>
    by_cases h : s.cfg.n ≤ f.toNat
    · exact .inl ⟨.indexOutOfRange, by decide, by simp [exec, execSext, h]⟩
    · exact .inr (by simpa [exec, execSext, h] using reg _ _)
  | fsb rs1 => exact .inr ⟨_, _, _, rfl⟩
  | add rd rs1 rs2 => exact .inr (reg _ _)
  | sub rd rs1 rs2 => exact .inr (reg _ _)
  | inc rd rs1 => exact .inr (reg _ _)
  | dec rd rs1 => exact .inr (reg _ _)
  | mul rd rs1 rs2 => exact .inr (reg _ _)
  | div rd rs1 rs2 =>
    by_cases h : s.reg rs2 = 0
    · exact .inl ⟨.divideByZero, by decide, by simp only [exec, execDiv, if_pos h]⟩
    · exact .inr (by simpa only [exec, execDiv, if_neg h] using reg _ _)
  | mod rd rs1 rs2 =>
    by_cases h : s.reg rs2 = 0
    · exact .inl ⟨.divideByZero, by decide, by simp only [exec, execMod, if_pos h]⟩
    · exact .inr (by simpa only [exec, execMod, if_neg h] using reg _ _)
  | divmod rd rd2 rs1 rs2 =>
    by_cases hr : rd = rd2
    · exact .inl ⟨.illegal, by decide, by simp only [exec, execDivmod, if_pos hr]⟩
    · by_cases h : s.reg rs2 = 0
      · exact .inl ⟨.divideByZero, by decide, by simp only [exec, execDivmod, if_neg hr, if_pos h]⟩
      · exact .inr ⟨_, _, _, by simp only [exec, execDivmod, if_neg hr, if_neg h]; rfl⟩
  | and rd rs1 rs2 => exact .inr (reg _ _)
  | or rd rs1 rs2 => exact .inr (reg _ _)
  | xor rd rs1 rs2 => exact .inr (reg _ _)
  | shl rd rs1 k => exact .inr (reg _ _)
  | shr rd rs1 k => exact .inr (reg _ _)
  | cmp rs1 rs2 => exact .inr ⟨_, _, _, rfl⟩
  | castin rd width =>
    by_cases h : width.toNat = 0 ∨ s.cfg.wbus < width.toNat
    · exact .inl ⟨.illegal, by decide, by simp only [exec, execCastin, if_pos h]⟩
    · exact .inr (by simpa only [exec, execCastin, if_neg h] using reg _ _)
  | castout rs1 width =>
    by_cases h : width.toNat = 0 ∨ s.cfg.wbus < width.toNat
    · exact .inl ⟨.illegal, by decide, by simp only [exec, execCastout, if_pos h]⟩
    · exact .inr (by simpa only [exec, execCastout, if_neg h] using dout _)
  | ldnc rd width =>
    by_cases h : ¬(width.toNat = 8 ∨ width.toNat = 16 ∨ width.toNat = 32 ∨ width.toNat = 64)
    · exact .inl ⟨.illegal, by decide, by simp only [exec, execLdnc, if_pos h]⟩
    · by_cases hf : fitsSigned s.cfg.n (s.dinLow width.toNat).toInt = true
      · exact .inr (by simpa only [exec, execLdnc, if_neg h, if_pos hf] using reg _ _)
      · exact .inl ⟨.narrowingOverflow, by decide, by simp only [exec, execLdnc, if_neg h, if_neg hf]⟩

end Sys2Proof.Machine
end

