-- ==== Sys2Proof/Laws/Operands.lean ====
section
/-! SUPPORT. The byte view, the bit view and the constants of a value, one lemma each saying what it reads. -/

namespace Sys2Proof.Machine

variable {n : Nat}

theorem byteOf_toNat (x : BitVec n) (i : Nat) : (byteOf x i).toNat = x.toNat / 2 ^ (8 * i) % 256 := by
  simp [byteOf, Nat.shiftRight_eq_div_pow]

theorem byteOf_getLsbD (x : BitVec n) (i k : Nat) :
    (byteOf x i).getLsbD k = (decide (k < 8) && x.getLsbD (8 * i + k)) := by
  simp [byteOf, BitVec.getLsbD_extractLsb']

theorem setBitOf_getLsbD (x : BitVec n) {j : Nat} (hj : j < n) (b : Bool) (k : Nat) :
    (setBitOf x j b).getLsbD k = if k = j then b else x.getLsbD k := by
  by_cases hk : k < n
  · cases b <;> simp [setBitOf, hk] <;> by_cases h : k = j <;> simp_all [eq_comm]
  · have h : k ≠ j := by omega
    rw [BitVec.getLsbD_of_ge _ _ (by omega), BitVec.getLsbD_of_ge _ _ (by omega)]
    simp [h]

/-- Replacing a byte, as a number: the part below, the new byte, the part above. -/
theorem setByteOf_eq (x : BitVec n) (i : Nat) (d : BitVec 8) :
    setByteOf x i d = BitVec.ofNat n
      (x.toNat % 2 ^ (8 * i) + 2 ^ (8 * i) * (d.toNat + 2 ^ 8 * (x.toNat / 2 ^ (8 * i + 8)))) := by
  unfold setByteOf
  rw [byteOf_toNat]
  congr 1
  have e : x.toNat / 2 ^ (8 * i + 8) = x.toNat / 2 ^ (8 * i) / 2 ^ 8 := by
    rw [Nat.pow_add, Nat.div_div_eq_div_mul]
  rw [e]
  generalize x.toNat = u
  have h1 := Nat.mod_add_div u (2 ^ (8 * i))
  have h2 : u / 2 ^ (8 * i) % 256 + 256 * (u / 2 ^ (8 * i) / 2 ^ 8) = u / 2 ^ (8 * i) := Nat.mod_add_div _ 256
  generalize u / 2 ^ (8 * i) = q at *
  generalize u % 2 ^ (8 * i) = m at *
  generalize 2 ^ (8 * i) = p at *
  generalize q / 2 ^ 8 = a at *
  have key : p * q = q % 256 * p + p * (2 ^ 8 * a) := by
    rw [Nat.mul_comm (q % 256) p, ← Nat.mul_add]; exact congrArg (p * ·) h2.symm
  rw [Nat.mul_add p d.toNat, Nat.mul_comm d.toNat p]
  omega

theorem setByteOf_getLsbD (x : BitVec n) (i : Nat) (d : BitVec 8) {j : Nat} (hj : j < n) :
    (setByteOf x i d).getLsbD j =
      if 8 * i ≤ j ∧ j < 8 * i + 8 then d.getLsbD (j - 8 * i) else x.getLsbD j := by
  rw [setByteOf_eq, BitVec.getLsbD_ofNat]
  simp only [hj, decide_true, Bool.true_and]
  rw [Nat.add_comm, Nat.testBit_two_pow_mul_add _ (Nat.mod_lt _ (Nat.two_pow_pos _))]
  by_cases h1 : j < 8 * i
  · rw [if_pos h1, if_neg (by omega), Nat.testBit_mod_two_pow]
    simp [h1, BitVec.getLsbD]
  · rw [if_neg h1, Nat.add_comm, Nat.testBit_two_pow_mul_add _ d.isLt]
    by_cases h2 : j < 8 * i + 8
    · rw [if_pos (by omega), if_pos ⟨by omega, h2⟩]; rfl
    · rw [if_neg (by omega), if_neg (by omega), Nat.testBit_div_two_pow]
      simp only [BitVec.getLsbD]
      congr 1; omega

theorem lowest_toNat (h : 1 ≤ n) : (lowest n).toNat = 2 ^ (n - 1) := by
  rw [lowest, BitVec.toNat_twoPow]
  exact Nat.mod_eq_of_lt (Nat.pow_lt_pow_right (by decide) (by omega))

theorem lowest_getLsbD (j : Nat) (h : j < n) : (lowest n).getLsbD j = decide (j = n - 1) := by
  rw [lowest, BitVec.getLsbD_twoPow]
  simp only [eq_comm (a := n - 1)]
  simp [show n - 1 < n by omega]

theorem highest_getLsbD (j : Nat) (h : j < n) : (highest n).getLsbD j = decide (j ≠ n - 1) := by
  rw [highest, BitVec.getLsbD_not, lowest_getLsbD j h]
  simp [h]

theorem highest_toNat (h : 1 ≤ n) : (highest n).toNat = 2 ^ (n - 1) - 1 := by
  rw [highest, BitVec.toNat_not, lowest_toNat h]
  have : 2 ^ n = 2 * 2 ^ (n - 1) := by rw [← pow_succ']; congr 1; omega
  omega

theorem byteCount_pos (h : 1 ≤ n) : 1 ≤ byteCount n := by unfold byteCount; omega

theorem signExtendFrom_getLsbD (x : BitVec n) {f j : Nat} (hj : j < n) :
    (signExtendFrom x f).getLsbD j = x.getLsbD (min j f) := by
  unfold signExtendFrom
  rw [BitVec.getLsbD_signExtend]
  simp only [hj, decide_true, Bool.true_and]
  by_cases h : j < f + 1
  · have : min j f = j := by omega
    simp [h, this]
  · have : min j f = f := by omega
    simp [h, this, BitVec.msb_eq_getLsbD_last]

end Sys2Proof.Machine
end

