-- ==== Sys2Proof/Laws/Flags.lean ====
section
/-! SUPPORT. What each bit of `FLAGS` is after the commands that write it. -/

namespace Sys2Proof.Machine

theorem Flag.bit_lt (f : Flag) : f.bit < 8 := by cases f <;> decide

theorem Flag.bit_injective {f g : Flag} (h : f.bit = g.bit) : f = g := by cases f <;> cases g <;> simp_all [Flag.bit]

/-- Writing a flag changes its bit and no other. -/
@[simp] theorem writeFlag_getLsbD (fl : BitVec 8) (f : Flag) (b : Bool) (k : Nat) :
    (writeFlag fl f b).getLsbD k = if k = f.bit then b else fl.getLsbD k :=
  setBitOf_getLsbD fl f.bit_lt b k

/-- `TST` writes bits 0 to 3. -/
theorem tstFlags_getLsbD {n : Nat} (fl : BitVec 8) (v : BitVec n) (k : Nat) :
    (tstFlags fl v).getLsbD k =
      if k = 0 then v.msb else if k = 1 then !v.msb else if k = 2 then v == lowest n
      else if k = 3 then v == highest n else fl.getLsbD k := by
  simp only [tstFlags, writeFlag_getLsbD, Flag.bit]
  split_ifs <;> first | rfl | omega | simp_all

/-- `FSB` writes bit 7. -/
theorem fsbFlags_getLsbD {n : Nat} (fl : BitVec 8) (v : BitVec n) (k : Nat) :
    (fsbFlags fl v).getLsbD k = if k = 7 then v == 0 else fl.getLsbD k := by
  simp only [fsbFlags, writeFlag_getLsbD, Flag.bit]
  rfl

/-- `CMP` writes bits 4 to 6. -/
theorem cmpFlags_getLsbD (fl : BitVec 8) (c : Ordering) (k : Nat) :
    (cmpFlags fl c).getLsbD k =
      if k = 4 then c == .lt else if k = 5 then c == .eq else if k = 6 then c == .gt else fl.getLsbD k := by
  simp only [cmpFlags, writeFlag_getLsbD, Flag.bit]
  split_ifs <;> first | rfl | omega | simp_all

end Sys2Proof.Machine
end

