-- ==== Sys2Proof/Laws/PerInstr.lean ====
section
/-! SUPPORT. Per-instruction families. `EncodeFitsRow`: the word of a command has the fixed bits of its row of the opcode map
(spec 30_encoding.md R72 to R80, R88). -/

namespace Sys2Proof.Laws

/-- A packed word under a mask that is given field by field. -/
theorem pack_and (op op' : BitVec 6) (rd rd' rs1 rs1' rs2 rs2' : BitVec 3) (z' : BitVec 1) (imm imm' : Imm) (m : CmdWord)
    (hm : m = op' ++ rd' ++ rs1' ++ rs2' ++ z' ++ imm') :
    pack op rd rs1 rs2 imm &&& m = pack (op &&& op') (rd &&& rd') (rs1 &&& rs1') (rs2 &&& rs2') (imm &&& imm') := by
  subst hm
  unfold pack
  rw [BitVec.and_append, BitVec.and_append, BitVec.and_append, BitVec.and_append, BitVec.and_append, BitVec.zero_and]

theorem and_ones6 (op : BitVec 6) : op &&& 63#6 = op := by revert op; decide
theorem and_zero3 (r : BitVec 3) : r &&& 0#3 = 0 := by revert r; decide
theorem and_zero16 (i : Imm) : i &&& 0#16 = 0 := BitVec.and_zero

/-- The word of the command, under its row's mask, is its row's match. -/
def EncodeFitsRow.Statement (i : Instr) : Prop := encode i &&& i.rowMask = i.rowMatch

namespace EncodeFitsRow

/-- Format `D` (R72): mask `0xFC7FFFFF`. -/
theorem fitsD (op : BitVec 6) (rd : BitVec 3) : pack op rd 0 0 0 &&& 0xFC7FFFFF#32 = pack op 0 0 0 0 := by
  refine (pack_and op 63#6 rd 0#3 0#3 7#3 0#3 7#3 1#1 0#16 0xFFFF#16 _ (by decide)).trans ?_
  simp only [and_ones6, and_zero3]
  rfl

/-- Format `DS` (R73): mask `0xFC0FFFFF`. -/
theorem fitsDS (op : BitVec 6) (rd rs1 : BitVec 3) : pack op rd rs1 0 0 &&& 0xFC0FFFFF#32 = pack op 0 0 0 0 := by
  refine (pack_and op 63#6 rd 0#3 rs1 0#3 0#3 7#3 1#1 0#16 0xFFFF#16 _ (by decide)).trans ?_
  simp only [and_ones6, and_zero3]
  rfl

/-- Format `DSS` (R74): mask `0xFC01FFFF`. -/
theorem fitsDSS (op : BitVec 6) (rd rs1 rs2 : BitVec 3) :
    pack op rd rs1 rs2 0 &&& 0xFC01FFFF#32 = pack op 0 0 0 0 := by
  refine (pack_and op 63#6 rd 0#3 rs1 0#3 rs2 0#3 1#1 0#16 0xFFFF#16 _ (by decide)).trans ?_
  simp only [and_ones6, and_zero3]
  rfl

theorem low_and (q : BitVec 3) : (0#13 ++ q : BitVec 16) &&& 0xFFF8#16 = 0 := by revert q; decide

/-- Format `DSSD` (R75): mask `0xFC01FFF8`. -/
theorem fitsDSSD (op : BitVec 6) (rd rs1 rs2 q : BitVec 3) :
    pack op rd rs1 rs2 (0#13 ++ q) &&& 0xFC01FFF8#32 = pack op 0 0 0 0 := by
  refine (pack_and op 63#6 rd 0#3 rs1 0#3 rs2 0#3 1#1 (0#13 ++ q) 0xFFF8#16 _ (by decide)).trans ?_
  simp only [and_ones6, low_and q, and_zero3]

/-- Format `DSI` (R76): mask `0xFC0F0000`. -/
theorem fitsDSI (op : BitVec 6) (rd rs1 : BitVec 3) (imm : Imm) :
    pack op rd rs1 0 imm &&& 0xFC0F0000#32 = pack op 0 0 0 0 := by
  refine (pack_and op 63#6 rd 0#3 rs1 0#3 0#3 7#3 1#1 imm 0#16 _ (by decide)).trans ?_
  simp only [and_ones6, and_zero3, and_zero16]
  rfl

/-- Format `DI` (R77): mask `0xFC7F0000`. -/
theorem fitsDI (op : BitVec 6) (rd : BitVec 3) (imm : Imm) :
    pack op rd 0 0 imm &&& 0xFC7F0000#32 = pack op 0 0 0 0 := by
  refine (pack_and op 63#6 rd 0#3 0#3 7#3 0#3 7#3 1#1 imm 0#16 _ (by decide)).trans ?_
  simp only [and_ones6, and_zero3, and_zero16]
  rfl

/-- Format `S` (R78): mask `0xFF8FFFFF`. -/
theorem fitsS (op : BitVec 6) (rs1 : BitVec 3) : pack op 0 rs1 0 0 &&& 0xFF8FFFFF#32 = pack op 0 0 0 0 := by
  refine (pack_and op 63#6 0#3 7#3 rs1 0#3 0#3 7#3 1#1 0#16 0xFFFF#16 _ (by decide)).trans ?_
  simp only [and_ones6, and_zero3]
  rfl

/-- Format `SI` (R79): mask `0xFF8F0000`. -/
theorem fitsSI (op : BitVec 6) (rs1 : BitVec 3) (imm : Imm) :
    pack op 0 rs1 0 imm &&& 0xFF8F0000#32 = pack op 0 0 0 0 := by
  refine (pack_and op 63#6 0#3 7#3 rs1 0#3 0#3 7#3 1#1 imm 0#16 _ (by decide)).trans ?_
  simp only [and_ones6, and_zero3, and_zero16]
  rfl

/-- Format `SS` (R80): mask `0xFF81FFFF`. -/
theorem fitsSS (op : BitVec 6) (rs1 rs2 : BitVec 3) :
    pack op 0 rs1 rs2 0 &&& 0xFF81FFFF#32 = pack op 0 0 0 0 := by
  refine (pack_and op 63#6 0#3 7#3 rs1 0#3 rs2 0#3 1#1 0#16 0xFFFF#16 _ (by decide)).trans ?_
  simp only [and_ones6, and_zero3]
  rfl

theorem clr (rd : Reg) : Statement (.clr rd) := fitsD _ _
theorem mov (rd rs1 : Reg) : Statement (.mov rd rs1) := fitsDS _ _ _
theorem getbyte (rs1 : Reg) (idx : Imm) : Statement (.getbyte rs1 idx) := fitsSI _ _ _
theorem setbyte (rd : Reg) (idx : Imm) : Statement (.setbyte rd idx) := fitsDI _ _ _
theorem getbit (rs1 : Reg) (idx : Imm) : Statement (.getbit rs1 idx) := fitsSI _ _ _
theorem setbit (rd : Reg) (idx : Imm) : Statement (.setbit rd idx) := fitsDI _ _ _
theorem ldlow (rd : Reg) : Statement (.ldlow rd) := fitsD _ _
theorem ldmax (rd : Reg) : Statement (.ldmax rd) := fitsD _ _
theorem tst (rs1 : Reg) : Statement (.tst rs1) := fitsS _ _
theorem neg (rd rs1 : Reg) : Statement (.neg rd rs1) := fitsDS _ _ _
theorem sext (rd rs1 : Reg) (f : Imm) : Statement (.sext rd rs1 f) := fitsDSI _ _ _ _
theorem fsb (rs1 : Reg) : Statement (.fsb rs1) := fitsS _ _
theorem add (rd rs1 rs2 : Reg) : Statement (.add rd rs1 rs2) := fitsDSS _ _ _ _
theorem sub (rd rs1 rs2 : Reg) : Statement (.sub rd rs1 rs2) := fitsDSS _ _ _ _
theorem inc (rd rs1 : Reg) : Statement (.inc rd rs1) := fitsDS _ _ _
theorem dec (rd rs1 : Reg) : Statement (.dec rd rs1) := fitsDS _ _ _
theorem mul (rd rs1 rs2 : Reg) : Statement (.mul rd rs1 rs2) := fitsDSS _ _ _ _
theorem div (rd rs1 rs2 : Reg) : Statement (.div rd rs1 rs2) := fitsDSS _ _ _ _
theorem mod (rd rs1 rs2 : Reg) : Statement (.mod rd rs1 rs2) := fitsDSS _ _ _ _
theorem divmod (rd rd2 rs1 rs2 : Reg) : Statement (.divmod rd rd2 rs1 rs2) := fitsDSSD _ _ _ _ _
theorem and (rd rs1 rs2 : Reg) : Statement (.and rd rs1 rs2) := fitsDSS _ _ _ _
theorem or (rd rs1 rs2 : Reg) : Statement (.or rd rs1 rs2) := fitsDSS _ _ _ _
theorem xor (rd rs1 rs2 : Reg) : Statement (.xor rd rs1 rs2) := fitsDSS _ _ _ _
theorem shl (rd rs1 : Reg) (k : Imm) : Statement (.shl rd rs1 k) := fitsDSI _ _ _ _
theorem shr (rd rs1 : Reg) (k : Imm) : Statement (.shr rd rs1 k) := fitsDSI _ _ _ _
theorem cmp (rs1 rs2 : Reg) : Statement (.cmp rs1 rs2) := fitsSS _ _ _
theorem castin (rd : Reg) (width : Imm) : Statement (.castin rd width) := fitsDI _ _ _
theorem castout (rs1 : Reg) (width : Imm) : Statement (.castout rs1 width) := fitsSI _ _ _
theorem ldnc (rd : Reg) (width : Imm) : Statement (.ldnc rd width) := fitsDI _ _ _

end EncodeFitsRow

end Sys2Proof.Laws
end

