-- ==== Sys2Proof/Tests/Slice0.lean ====
section
/-! SUPPORT. The model's own tests: ill-formed terms, written-out words, one-step vectors of spec 95_test_vectors.md, and for each
statement with hypotheses a named witness that they can be met. -/

namespace Sys2Proof.Tests

open Sys2Proof Sys2Proof.Machine

/-! ## Helpers -/

/-- Blocks of the widths the vectors use, all with `WBUS = 64`. -/
def c1 : Config := Config.ofWidth 1 (by decide) (by decide)
def c3 : Config := Config.ofWidth 3 (by decide) (by decide)
def c8 : Config := Config.ofWidth 8 (by decide) (by decide)
def c12 : Config := Config.ofWidth 12 (by decide) (by decide)
def c16 : Config := Config.ofWidth 16 (by decide) (by decide)
def c17 : Config := Config.ofWidth 17 (by decide) (by decide)
def c32 : Config := Config.ofWidth 32 (by decide) (by decide)

/-- The reset state of a block with values in `x0` to `x3`. -/
def regs (c : Config) (a b d e : Nat) : State :=
  { State.resetAt c with x := ⟨BitVec.ofNat _ a, BitVec.ofNat _ b, BitVec.ofNat _ d, BitVec.ofNat _ e, 0, 0, 0, 0⟩ }

/-- `s` with one command presented. -/
def offer (s : State) (cw : CmdWord) (din : Nat) : State := { s with cmds := [⟨cw, BitVec.ofNat _ din⟩] }

/-- One step with the command `cw`, then a reading of the next state beside its `STATUS`; `none` if there is no next state. -/
def after (s : State) (cw : CmdWord) (din : Nat) (read : State → Nat) : Option (Nat × Nat) :=
  match step (offer s cw din) with
  | .next t => some (read t, t.status.toNat)
  | _ => none

def reg (r : Reg) (t : State) : Nat := (t.reg r).toNat
def dout (t : State) : Nat := t.dout.toNat
def flags (t : State) : Nat := t.flags.toNat
def sticky (t : State) : Nat := t.sticky.toNat

/-! ## Well-formedness: an ill-formed term for each check of R84, and the boundary that passes -/

theorem test_wf_divmod_equal_destinations : Instr.wellFormed 64 (.divmod .x2 .x2 .x0 .x1) = false := by decide
theorem test_wf_castin_width_0 : Instr.wellFormed 64 (.castin .x0 0#16) = false := by decide
theorem test_wf_castin_width_above_wbus : Instr.wellFormed 64 (.castin .x0 65#16) = false := by decide
theorem test_wf_castout_width_0 : Instr.wellFormed 64 (.castout .x0 0#16) = false := by decide
theorem test_wf_castout_width_above_wbus : Instr.wellFormed 64 (.castout .x0 65#16) = false := by decide
theorem test_wf_ldnc_not_native : Instr.wellFormed 64 (.ldnc .x0 12#16) = false := by decide
theorem test_wf_boundaries_pass :
    Instr.wellFormed 64 (.divmod .x2 .x3 .x0 .x1) = true ∧ Instr.wellFormed 64 (.castin .x0 1#16) = true ∧
    Instr.wellFormed 64 (.castout .x0 64#16) = true ∧ Instr.wellFormed 64 (.ldnc .x0 64#16) = true := by decide

/-! ## Decoding: a word of every command, bit by bit from the patterns of R88, with distinct register fields -/

theorem test_decode_clr : decode 0b000001_011_000_000_0_0000000000000000#32 = .ok (.clr .x3) := by decide
theorem test_decode_mov : decode 0b000010_010_001_000_0_0000000000000000#32 = .ok (.mov .x2 .x1) := by decide
theorem test_decode_getbyte : decode 0b000011_000_001_000_0_0000000000000010#32 = .ok (.getbyte .x1 2#16) := by decide
theorem test_decode_setbyte : decode 0b000100_110_000_000_0_0000000000000001#32 = .ok (.setbyte .x6 1#16) := by decide
theorem test_decode_getbit : decode 0b000101_000_001_000_0_0000000000010000#32 = .ok (.getbit .x1 16#16) := by decide
theorem test_decode_setbit : decode 0b000110_101_000_000_0_1000000000000111#32 = .ok (.setbit .x5 0x8007#16) := by decide
theorem test_decode_ldlow : decode 0b000111_100_000_000_0_0000000000000000#32 = .ok (.ldlow .x4) := by decide
theorem test_decode_ldmax : decode 0b001000_111_000_000_0_0000000000000000#32 = .ok (.ldmax .x7) := by decide
theorem test_decode_tst : decode 0b010000_000_101_000_0_0000000000000000#32 = .ok (.tst .x5) := by decide
theorem test_decode_neg : decode 0b010001_001_010_000_0_0000000000000000#32 = .ok (.neg .x1 .x2) := by decide
theorem test_decode_sext : decode 0b010010_100_011_000_0_0000000000001111#32 = .ok (.sext .x4 .x3 15#16) := by decide
theorem test_decode_fsb : decode 0b010011_000_110_000_0_0000000000000000#32 = .ok (.fsb .x6) := by decide
theorem test_decode_add : decode 0b011000_001_010_011_0_0000000000000000#32 = .ok (.add .x1 .x2 .x3) := by decide
theorem test_decode_sub : decode 0b011001_100_101_110_0_0000000000000000#32 = .ok (.sub .x4 .x5 .x6) := by decide
theorem test_decode_inc : decode 0b011010_111_001_000_0_0000000000000000#32 = .ok (.inc .x7 .x1) := by decide
theorem test_decode_dec : decode 0b011011_000_001_000_0_0000000000000000#32 = .ok (.dec .x0 .x1) := by decide
theorem test_decode_mul : decode 0b100000_010_000_001_0_0000000000000000#32 = .ok (.mul .x2 .x0 .x1) := by decide
theorem test_decode_div : decode 0b100100_101_000_111_0_0000000000000000#32 = .ok (.div .x5 .x0 .x7) := by decide
theorem test_decode_mod : decode 0b100101_101_000_001_0_0000000000000000#32 = .ok (.mod .x5 .x0 .x1) := by decide
theorem test_decode_divmod : decode 0b100110_010_000_001_0_0000000000000_011#32 = .ok (.divmod .x2 .x3 .x0 .x1) := by decide
theorem test_decode_and : decode 0b101000_001_010_011_0_0000000000000000#32 = .ok (.and .x1 .x2 .x3) := by decide
theorem test_decode_or : decode 0b101001_011_010_001_0_0000000000000000#32 = .ok (.or .x3 .x2 .x1) := by decide
theorem test_decode_xor : decode 0b101010_001_011_010_0_0000000000000000#32 = .ok (.xor .x1 .x3 .x2) := by decide
theorem test_decode_shl : decode 0b101011_001_000_000_0_0000000000000011#32 = .ok (.shl .x1 .x0 3#16) := by decide
theorem test_decode_shr : decode 0b101100_011_001_000_0_1111111111111111#32 = .ok (.shr .x3 .x1 0xFFFF#16) := by decide
theorem test_decode_cmp : decode 0b110000_000_001_010_0_0000000000000000#32 = .ok (.cmp .x1 .x2) := by decide
theorem test_decode_castin : decode 0b111000_001_000_000_0_0000000000100000#32 = .ok (.castin .x1 32#16) := by decide
theorem test_decode_castout : decode 0b111001_000_010_000_0_0000000001000000#32 = .ok (.castout .x2 64#16) := by decide
theorem test_decode_ldnc : decode 0b111010_011_000_000_0_0000000000001000#32 = .ok (.ldnc .x3 8#16) := by decide

/-! ## Rejected words: R83, and the vectors of 95_test_vectors.md 2.9 -/

theorem test_reject_all_zero : decode 0x00000000#32 = .error (.unassignedOpcode 0x00#6) := by decide
theorem test_reject_all_ones : decode 0xFFFFFFFF#32 = .error (.unassignedOpcode 0x3F#6) := by decide
theorem test_reject_bit_16 : decode 0x60150000#32 = .error (.mustBeZero 0x18#6) := by decide
theorem test_reject_unused_imm : decode 0x60140001#32 = .error (.mustBeZero 0x18#6) := by decide
theorem test_reject_unused_rs1 : decode 0x04100000#32 = .error (.mustBeZero 0x01#6) := by decide
theorem test_reject_unused_rd : decode 0xC0940000#32 = .error (.mustBeZero 0x30#6) := by decide
theorem test_reject_unused_rs2 : decode 0x0C120000#32 = .error (.mustBeZero 0x03#6) := by decide
theorem test_reject_divmod_imm_bit_4 : decode 0x99020013#32 = .error (.mustBeZero 0x26#6) := by decide

/-- `ILLEGAL` wins over `DivideByZero` and over `IndexOutOfRange` (2.9, R247), and `STICKY` takes it. -/
theorem test_illegal_first :
    after (regs c8 7 0 0 0) 0x99030003#32 0 sticky = some (5, 5) ∧
    after (regs c8 7 0 0 0) 0x0C110009#32 0 sticky = some (5, 5) := by decide

/-- The host's reading of a table word, and the first step after reset with it presented. -/
theorem test_table_word :
    decodeTableWord 32 0x05800000 = some (.clr .x3) ∧ decodeTableWord 32 0 = none ∧
    step (State.reset.withFetchWord 32 0x05800000) = exec (.clr .x3) State.reset := ⟨by decide, by decide, rfl⟩

/-- With no command presented the block is idle. -/
theorem test_idle : step State.reset = .next State.reset := rfl

/-! ## One-step vectors of 95_test_vectors.md 2.1 to 2.9, and program steps of part 3 -/

theorem test_clr : after (regs c8 0 0 0 0xAB) 0x05800000#32 0 (reg .x3) = some (0x00, 0) := by decide
theorem test_mov : after (regs c17 0 0x1ABCD 0 0) 0x09100000#32 0 (reg .x2) = some (0x1ABCD, 0) := by decide
theorem test_getbyte_top : after (regs c17 0 0x1ABCD 0 0) 0x0C100002#32 0 dout = some (0x1, 0) := by decide
theorem test_getbyte_bound : after (regs c32 0 0x12345678 0 0) 0x0C100004#32 0 dout = some (0, 2) := by decide
theorem test_setbyte_top : after (regs c17 0 0 0 0) 0x10000002#32 0xFF (reg .x0) = some (0x10000, 0) := by decide
theorem test_setbyte_low : after (regs c17 0x1ABCD 0 0 0) 0x10000001#32 0x1234 (reg .x0) = some (0x134CD, 0) := by decide
theorem test_getbit : after (regs c17 0 0x10000 0 0) 0x14100010#32 0 dout = some (1, 0) := by decide
theorem test_getbit_bound : after (regs c17 0 0x10000 0 0) 0x14100011#32 0 dout = some (0, 2) := by decide
theorem test_setbit_sign : after (regs c8 0 0 0 0) 0x18000007#32 1 (reg .x0) = some (0x80, 0) := by decide
theorem test_setbit_clear : after (regs c8 0xFF 0 0 0) 0x18000000#32 0xFE (reg .x0) = some (0xFE, 0) := by decide
theorem test_ldlow : after (regs c17 0 0 0 0) 0x1E000000#32 0 (reg .x4) = some (0x10000, 0) := by decide
theorem test_ldmax : after (regs c17 0 0 0 0) 0x22000000#32 0 (reg .x4) = some (0x0FFFF, 0) := by decide
theorem test_tst_lowest : after (regs c8 0 0x80 0 0) 0x40100000#32 0 flags = some (0x05, 0) := by decide
theorem test_tst_one_bit_zero : after (regs c1 0 0 0 0) 0x40100000#32 0 flags = some (0x0A, 0) := by decide
theorem test_neg_lowest : after (regs c17 0 0x10000 0 0) 0x44100000#32 0 (reg .x0) = some (0x10000, 0) := by decide
theorem test_neg_one : after (regs c8 0 1 0 0) 0x44100000#32 0 (reg .x0) = some (0xFF, 0) := by decide
theorem test_sext_set : after (regs c16 0 0x0080 0 0) 0x48100007#32 0 (reg .x0) = some (0xFF80, 0) := by decide
theorem test_sext_clear : after (regs c16 0 0xFF7F 0 0) 0x48100007#32 0 (reg .x0) = some (0x007F, 0) := by decide
theorem test_fsb_zero : after (regs c8 0 0 0 0) 0x4C100000#32 0 dout = some (0xFFFFFFFFFFFFFFFF, 0) := by decide
theorem test_fsb_value : after (regs c17 0 0x00300 0 0) 0x4C100000#32 0 dout = some (9, 0) := by decide
theorem test_add_carry : after (regs c12 0 0x0FF 1 0) 0x60140000#32 0 (reg .x0) = some (0x100, 0) := by decide
theorem test_add_wrap : after (regs c8 0 0xFF 1 0) 0x60140000#32 0 (reg .x0) = some (0, 0) := by decide
theorem test_sub_borrow : after (regs c12 0 0x100 1 0) 0x64140000#32 0 (reg .x0) = some (0x0FF, 0) := by decide
theorem test_sub_same : after (regs c8 0 0 0 0x99) 0x65B60000#32 0 (reg .x3) = some (0, 0) := by decide
theorem test_inc_max : after (regs c3 0 3 0 0) 0x68100000#32 0 (reg .x0) = some (4, 0) := by decide
theorem test_dec_zero : after (regs c17 0 0 0 0) 0x6C100000#32 0 (reg .x0) = some (0x1FFFF, 0) := by decide
theorem test_mul_signs : after (regs c8 5 0x03 0xFE 0) 0x80140000#32 0 (reg .x0) = some (0xFA, 0) := by decide
theorem test_mul_wraps : after (regs c32 0x000F4240 0x000F4240 0 0) 0x81020000#32 0 (reg .x2) = some (0xD4A51000, 0) := by decide
theorem test_div_negative : after (regs c8 0xF9 2 0 0) 0x91020000#32 0 (reg .x2) = some (0xFD, 0) := by decide
theorem test_div_zero : after (regs c8 0xF9 0 0x11 0) 0x91020000#32 0 (reg .x2) = some (0x11, 1) := by decide
theorem test_mod_negative : after (regs c8 0xF9 2 0 0) 0x95020000#32 0 (reg .x2) = some (0xFF, 0) := by decide
theorem test_mod_zero : after (regs c8 0xF9 0 0x11 0) 0x95020000#32 0 (reg .x2) = some (0x11, 1) := by decide
theorem test_divmod_quotient : after (regs c8 0x80 3 0 0) 0x99020003#32 0 (reg .x2) = some (0xD6, 0) := by decide
theorem test_divmod_remainder : after (regs c8 0x80 3 0 0) 0x99020003#32 0 (reg .x3) = some (0xFE, 0) := by decide
theorem test_and : after (regs c8 0 0 0xCA 0xAC) 0xA0A60000#32 0 (reg .x1) = some (0x88, 0) := by decide
theorem test_or : after (regs c8 0 0 0xCA 0xAC) 0xA4A60000#32 0 (reg .x1) = some (0xEE, 0) := by decide
theorem test_xor : after (regs c8 0 0 0xCA 0xAC) 0xA8A60000#32 0 (reg .x1) = some (0x66, 0) := by decide
theorem test_shl_sign : after (regs c17 0x0C000 0 0 0) 0xAC800001#32 0 (reg .x1) = some (0x18000, 0) := by decide
theorem test_shl_out : after (regs c8 1 0 0 0) 0xAC800008#32 0 (reg .x1) = some (0, 0) := by decide
theorem test_shr_logical : after (regs c8 0x80 0 0 0) 0xB0800001#32 0 (reg .x1) = some (0x40, 0) := by decide
theorem test_shr_out : after (regs c8 0x81 0 0 0) 0xB080FFFF#32 0 (reg .x1) = some (0, 0) := by decide
theorem test_cmp_signed : after (regs c17 0 0x0FFFF 0x10000 0) 0xC0140000#32 0 flags = some (0x40, 0) := by decide
theorem test_cmp_same_sign : after (regs c8 0 0xFE 0xFF 0) 0xC0140000#32 0 flags = some (0x10, 0) := by decide
theorem test_castin_widens : after (regs c17 0 0 0 0) 0xE0000008#32 0x80 (reg .x0) = some (0x1FF80, 0) := by decide
theorem test_castin_narrows : after (regs c8 0 0 0 0) 0xE0000020#32 0x80 (reg .x0) = some (0x80, 0) := by decide
theorem test_castout_widens : after (regs c8 0 0x80 0 0) 0xE4100020#32 0 dout = some (0xFFFFFF80, 0) := by decide
theorem test_castout_narrows : after (regs c8 0 0x7A 0 0) 0xE4100004#32 0 dout = some (0xA, 0) := by decide
theorem test_ldnc_fits : after (regs c8 5 0 0 0) 0xE8000020#32 0xFFFFFF80 (reg .x0) = some (0x80, 0) := by decide
theorem test_ldnc_overflow : after (regs c8 5 0 0 0) 0xE8000020#32 0xFFFFFF7F (reg .x0) = some (5, 3) := by decide

/-- P3 step 10: `FSB` sets `NONE` and keeps `POS`. -/
theorem test_fsb_keeps_pos : after { regs c17 0 0 0 0 with flags := 0x02 } 0x4C200000#32 0 flags = some (0x82, 0) := by decide

/-- P2 step 11: a later fault of another kind does not overwrite `STICKY`. -/
theorem test_sticky_stays : after { regs c32 7 1 0 0 with sticky := 1 } 0x9A820005#32 0 sticky = some (1, 5) := by decide

/-- P2 step 10: a command that completes clears `STATUS` and leaves `STICKY`. -/
theorem test_success_after_fault :
    after { regs c32 7 1 0 0 with status := 1, sticky := 1 } 0x96820000#32 0 sticky = some (1, 0) := by decide

/-! ## Witnesses: for each statement with hypotheses, concrete values that meet all of them, at the boundaries of each clause -/


theorem witness_StepRunsDecodedCommand :
    (offer (regs c8 0 1 2 0) 0x60140000#32 7).cmds = [⟨0x60140000#32, 7#64⟩] ∧
    decode 0x60140000#32 = .ok (.add .x0 .x1 .x2) ∧ Instr.wellFormed 64 (.add .x0 .x1 .x2) = true := by decide

theorem witness_EncodeInvertsDecode : decode 0x44A00000#32 = .ok (.neg .x1 .x2) := by decide

/-- A word of a row, two commands of that row, and a word of no row at the head of a list. -/
theorem witness_DecodeFollowsTheOpcodeMap :
    (decode 0x44A00000#32 = .ok (.neg .x1 .x2) ∧
      0x44A00000#32 &&& Instr.rowMask (.neg .x1 .x2) = Instr.rowMatch (.neg .x1 .x2) ∧
      0x44A00000#32 &&& Instr.rowMask (.neg .x5 .x6) = Instr.rowMatch (.neg .x5 .x6)) ∧
    (∀ i : Instr, 0x60150000#32 &&& i.rowMask ≠ i.rowMatch) ∧
    (offer (regs c8 0 0 0 0) 0x60150000#32 7).cmds = [⟨0x60150000#32, 7#64⟩] := by
  refine ⟨by decide, fun i => ?_, by decide⟩
  cases i <;> (rw [Instr.rowMask, Instr.rowMatch]; decide)

/-- Clause 1: a word of no row, and words that fail R84 at both ends of the range; clause 2: the ends that pass. -/
theorem witness_IllegalExactlyForMalformedWords :
    (offer (regs c8 0 0 0 0) 0x00000000#32 0).cmds = [⟨0x00000000#32, 0#64⟩] ∧
    (∀ i, decode 0x00000000#32 = .ok i → i.wellFormed 64 = false) ∧
    (∀ i, decode 0xE0000000#32 = .ok i → i.wellFormed 64 = false) ∧
    (∀ i, decode 0xE0000041#32 = .ok i → i.wellFormed 64 = false) ∧
    (decode 0xE0000001#32 = .ok (.castin .x0 1#16) ∧ Instr.wellFormed 64 (.castin .x0 1#16) = true) ∧
    (decode 0xE0000040#32 = .ok (.castin .x0 64#16) ∧ Instr.wellFormed 64 (.castin .x0 64#16) = true) := by
  refine ⟨by decide, ?_, ?_, ?_, by decide, by decide⟩
  · intro i h
    exact absurd h (by rw [show decode 0x00000000#32 = .error (.unassignedOpcode 0x00#6) by decide]; simp)
  · intro i h
    rw [show decode 0xE0000000#32 = .ok (.castin .x0 0#16) by decide] at h
    cases h; decide
  · intro i h
    rw [show decode 0xE0000041#32 = .ok (.castin .x0 65#16) by decide] at h
    cases h; decide

/-- `N = 17`: byte 2 is the last, byte 3 the first that does not exist; byte 0 and byte 65535 are the ends of the immediate. -/
theorem witness_GetbyteReadsOneByte :
    (0#16).toNat < (c17.n + 7) / 8 ∧ (2#16).toNat < (c17.n + 7) / 8 ∧
    (c17.n + 7) / 8 ≤ (3#16).toNat ∧ (c17.n + 7) / 8 ≤ (0xFFFF#16).toNat := by decide

theorem witness_SetbyteReplacesOneByte :
    (0#16).toNat < (c8.n + 7) / 8 ∧ (c8.n + 7) / 8 ≤ (1#16).toNat ∧ (c8.n + 7) / 8 ≤ (0xFFFF#16).toNat := by decide

theorem witness_GetbitReadsOneBit :
    (0#16).toNat < c17.n ∧ (16#16).toNat < c17.n ∧ c17.n ≤ (17#16).toNat ∧ c17.n ≤ (0xFFFF#16).toNat := by decide

theorem witness_SetbitReplacesOneBit :
    (0#16).toNat < c8.n ∧ (7#16).toNat < c8.n ∧ c8.n ≤ (8#16).toNat ∧ c8.n ≤ (0xFFFF#16).toNat := by decide

theorem witness_SextReplicatesTheBit :
    (0#16).toNat < c16.n ∧ (15#16).toNat < c16.n ∧ c16.n ≤ (16#16).toNat ∧ c16.n ≤ (0xFFFF#16).toNat := by decide

theorem witness_FsbFindsTheHighestBit :
    ((regs c8 0 0 1 0).reg .x1).toNat = 0 ∧ ((regs c8 0 0 1 0).reg .x2).toNat ≠ 0 := by decide

theorem witness_IncAndDecWrapAround : ((regs c8 0 0 0 0).reg .x1).toNat = 0 := by decide

theorem witness_DivWritesTheTruncatedQuotient :
    ((regs c8 0x80 0xFF 0 0).reg .x1).toNat ≠ 0 ∧ ((regs c8 0x80 0xFF 0 0).reg .x2).toNat = 0 := by decide

theorem witness_ModWritesTheDividendSignedRemainder :
    ((regs c8 0xF9 1 0 0).reg .x1).toNat ≠ 0 ∧ ((regs c8 0xF9 1 0 0).reg .x2).toNat = 0 := by decide

theorem witness_DivmodWritesBothResults :
    (Reg.x2 ≠ Reg.x3 ∧ ((regs c8 7 2 0 0).reg .x1).toNat ≠ 0) ∧
    (Reg.x2 ≠ Reg.x3 ∧ ((regs c8 7 0 0 0).reg .x1).toNat = 0) ∧ Reg.x2 = Reg.x2 := by decide

theorem witness_DivisionIdentity : Reg.x2 ≠ Reg.x3 ∧ ((regs c8 0x80 0xFF 0 0).reg .x1).toNat ≠ 0 := by decide

theorem witness_ArithmeticShiftInTwoCommands :
    (0#16).toNat + (7#16).toNat = (regs c8 0x90 0 0 0).cfg.n - 1 ∧ (2#16).toNat + (5#16).toNat = (regs c8 0x90 0 0 0).cfg.n - 1 ∧
    (7#16).toNat + (0#16).toNat = (regs c8 0x90 0 0 0).cfg.n - 1 := by decide

theorem witness_CastinLoadsTheTruncatedSignedValue :
    (1 ≤ (1#16).toNat ∧ (1#16).toNat ≤ c8.wbus) ∧ (1 ≤ (64#16).toNat ∧ (64#16).toNat ≤ c8.wbus) ∧
    (0#16).toNat = 0 ∧ c8.wbus < (65#16).toNat := by decide

theorem witness_CastoutShowsTheTruncatedSignedValue :
    (1 ≤ (1#16).toNat ∧ (1#16).toNat ≤ c3.wbus) ∧ (1 ≤ (64#16).toNat ∧ (64#16).toNat ≤ c3.wbus) ∧
    (0#16).toNat = 0 ∧ c3.wbus < (65#16).toNat := by decide

/-- `DIN` read at 16 signed bits, as the statement writes the reading out. -/
def reading (s : State) (w : Nat) : Int :=
  if s.din.getLsbD (w - 1) then ((s.din.toNat % 2 ^ w : Nat) : Int) - 2 ^ w else ((s.din.toNat % 2 ^ w : Nat) : Int)

/-- `N = 8`: -128 and 127 fit, -129 and 128 do not; the native widths, and widths beside them. -/
theorem witness_LdncLoadsOnlyWhatFits :
    (16#16).toNat ∈ [8, 16, 32, 64] ∧ (8#16).toNat ∈ [8, 16, 32, 64] ∧ (64#16).toNat ∈ [8, 16, 32, 64] ∧
    reading { regs c8 0 0 0 0 with din := 0xFF80 } 16 = -2 ^ (c8.n - 1) ∧
    reading { regs c8 0 0 0 0 with din := 0x007F } 16 = 2 ^ (c8.n - 1) - 1 ∧
    reading { regs c8 0 0 0 0 with din := 0xFF7F } 16 < -2 ^ (c8.n - 1) ∧
    2 ^ (c8.n - 1) - 1 < reading { regs c8 0 0 0 0 with din := 0x0080 } 16 ∧
    (0#16).toNat ∉ [8, 16, 32, 64] ∧ (65#16).toNat ∉ [8, 16, 32, 64] := by decide

theorem witness_CastLaws : (1 ≤ 1 ∧ 1 ≤ 1 ∧ 1 ≤ 1) ∧ (1 ≤ 8 ∧ 1 ≤ 17 ∧ 8 ≤ 17) ∧ (1 ≤ 2 ∧ 1 ≤ 1 ∧ 1 < 2) := by decide

theorem witness_CastOutThenInReturnsTheValue :
    (c8.n ≤ (8#16).toNat ∧ (8#16).toNat ≤ c8.wbus) ∧ (c8.n ≤ (64#16).toNat ∧ (64#16).toNat ≤ c8.wbus) := by decide

/-- The byte statements and the magnitude ask for a width of at least 1. -/
theorem witness_TopByteStaysInsideItsMask : 1 ≤ c1.n ∧ 1 ≤ c17.n := by decide
theorem witness_MagnitudeIsTheAbsoluteValue : 1 ≤ c1.n := by decide
theorem witness_LongDivisionComputesQuotientAndRemainder : (1#1 : BitVec 1) ≠ 0 ∧ (0x80#8 : BitVec 8) ≠ 0 := by decide
theorem witness_ByteCastIsTheTruncatedSignedReading : 1 ≤ c1.n ∧ 1 ≤ c17.n := by decide

theorem witness_AddThenSubRestores : Reg.x0 ≠ Reg.x2 := by decide

/-- The last bit of the only byte of `N = 8`, and the one bit of the top byte of `N = 17`. -/
theorem witness_StoredByteIsReadBack :
    (7 < 8 ∧ (7#16).toNat = 8 * (0#16).toNat + 7 ∧ (7#16).toNat < c8.n) ∧
    (0 < 8 ∧ (16#16).toNat = 8 * (2#16).toNat + 0 ∧ (16#16).toNat < c17.n) := by decide

/-- A list of `byteCount` bytes, and one byte too many (P3 steps 1 to 5). -/
theorem witness_ByteListBuildsItsValue :
    ({ State.resetAt c17 with cmds := ldbytes c17.wbus .x0 [0x00, 0xC0, 0x00] } : State).cmds
      = ldbytes 64 .x0 [0x00, 0xC0, 0x00] ∧
    [0x00#8, 0xC0#8, 0x00#8].length ≤ 65536 ∧ [0x00#8, 0xC0#8, 0x00#8].length ≤ (c17.n + 7) / 8 ∧
    (c17.n + 7) / 8 < [0x00#8, 0xC0#8, 0x00#8, 0x00#8].length := ⟨rfl, by decide⟩

/-- A step that faults, from a state whose `STICKY` is 0 and from one whose `STICKY` is not. -/
theorem witness_FaultChangesOnlyStatusAndSticky :
    (∃ t, (offer (regs c8 7 0 0 0) 0x99020003#32 0).cmds = [⟨0x99020003#32, 0#64⟩] ∧
      step (offer (regs c8 7 0 0 0) 0x99020003#32 0) = .next t ∧ t.status ≠ 0) ∧
    (∃ t, step (offer { regs c8 7 0 0 0 with sticky := 2 } 0x99020003#32 0) = .next t ∧ t.status ≠ 0) :=
  ⟨⟨_, by decide, rfl, by decide⟩, ⟨_, rfl, by decide⟩⟩

theorem witness_StickyKeepsTheFirstFault :
    ∃ t, (offer (regs c8 7 0 0 0) 0x99020003#32 0).cmds ≠ [] ∧ step (offer (regs c8 7 0 0 0) 0x99020003#32 0) = .next t :=
  ⟨_, by decide, rfl⟩

/-- `TST` changes bit 1, `CMP` bit 5, `FSB` bit 7. -/
theorem witness_FlagsHaveOwners :
    (∃ t, step (offer (regs c8 0 0 0 0) 0x40100000#32 0) = .next t ∧
      t.flags.getLsbD 1 ≠ (offer (regs c8 0 0 0 0) 0x40100000#32 0).flags.getLsbD 1) ∧
    (∃ t, step (offer (regs c8 0 0 0 0) 0xC0140000#32 0) = .next t ∧
      t.flags.getLsbD 5 ≠ (offer (regs c8 0 0 0 0) 0xC0140000#32 0).flags.getLsbD 5) ∧
    (∃ t, step (offer (regs c8 0 0 0 0) 0x4C100000#32 0) = .next t ∧
      t.flags.getLsbD 7 ≠ (offer (regs c8 0 0 0 0) 0x4C100000#32 0).flags.getLsbD 7) :=
  ⟨⟨_, rfl, by decide⟩, ⟨_, rfl, by decide⟩, ⟨_, rfl, by decide⟩⟩

theorem witness_DoutHasOwners :
    ∃ t, step (offer (regs c8 0 5 0 0) 0xE4100008#32 0) = .next t ∧
      t.dout.toNat ≠ (offer (regs c8 0 5 0 0) 0xE4100008#32 0).dout.toNat := ⟨_, rfl, by decide⟩

/-- A command that changes a register; two register files that agree on a command's sources and differ elsewhere. -/
theorem witness_RegistersReadAndWrittenAreTheListedOnes :
    (∃ t, exec (.inc .x0 .x1) (regs c8 0 5 0 0) = .next t ∧ (t.reg .x0).toNat ≠ ((regs c8 0 5 0 0).reg .x0).toNat) ∧
    (∀ r, r ∈ sources (.inc .x0 .x1) → (regs c8 9 5 9 9).x.get r = (regs c8 0 5 0 0).x.get r) ∧
    ((regs c8 9 5 9 9).reg .x0).toNat ≠ ((regs c8 0 5 0 0).reg .x0).toNat := by
  refine ⟨⟨_, rfl, by decide⟩, ?_, by decide⟩
  intro r h
  simp only [sources, List.mem_singleton] at h
  subst h; rfl

/-- Data that differ above the bits a command uses. -/
theorem witness_UnusedDataBitsAreIgnored :
    (∀ j, j < dinBits (.setbit .x0 3#16) → (0xFE#64).getLsbD j = (0x0#64).getLsbD j) ∧ (0xFE#64) ≠ (0x0#64) := by
  refine ⟨?_, by decide⟩
  intro j h
  have : j = 0 := by simp only [dinBits] at h; omega
  subst this; rfl

theorem witness_PortsHideTheRegisters : observesRegisters (.neg .x0 .x1) = false := by decide

/-- A legal state with a fault recorded and flags set, and its step. -/
theorem witness_StepKeepsTheStateLegal :
    State.Inv { offer (regs c8 7 0 0 0) 0x99020003#32 0 with status := 1, sticky := 2, flags := 0x2A } ∧
    ∃ t, step { offer (regs c8 7 0 0 0) 0x99020003#32 0 with status := 1, sticky := 2, flags := 0x2A } = .next t :=
  ⟨⟨by unfold legalCode; decide, by unfold legalCode; decide, by decide, by decide, by decide, by decide, by decide⟩, _, rfl⟩

/-- A run of one command from the reset state with no fault at its end; both ends of the run's steps. -/
theorem witness_RunWithoutFaultCompletesEveryCommand :
    State.Inv (offer (State.resetAt c8) 0x05800000#32 0) ∧
    (∃ t, Sys2Proof.core.run 1 (offer (State.resetAt c8) 0x05800000#32 0) = .next t ∧ State.noFault t) ∧ 0 ≤ 1 ∧ 1 ≤ 1 :=
  ⟨⟨by unfold legalCode; decide, by unfold legalCode; decide, by decide, by decide, by decide, by decide, by decide⟩,
    ⟨_, rfl, by unfold State.noFault; decide⟩, by decide, by decide⟩

end Sys2Proof.Tests
end

section
/-! Bytes and magnitudes: the byte view of a value put together again, the masks of its top byte, the complement and the magnitude
(spec 00_scope.md R6, R12, R14, R15). -/

namespace Sys2Proof.Machine

variable {n : Nat}

/-! ### The byte view -/

/-- The bytes of a value cover all its bits. -/
theorem le_eight_mul_byteCount (n : Nat) : n ≤ 8 * byteCount n := by unfold byteCount; omega

/-- A value is below the number its bytes can hold. -/
theorem toNat_lt_two_pow_bytes (x : BitVec n) : x.toNat < 2 ^ (8 * byteCount n) :=
  x.isLt.trans_le (Nat.pow_le_pow_right (by decide) (le_eight_mul_byteCount n))

/-- The low `count` bytes of a value make its remainder modulo `2^(8*count)`. -/
theorem fromBytes_byteOf (x : BitVec n) (count : Nat) :
    fromBytes (fun i => (byteOf x i).toNat) count = x.toNat % 2 ^ (8 * count) := by
  induction count with
  | zero => simp [fromBytes, Nat.mod_one]
  | succ count ih =>
    rw [fromBytes, ih, byteOf_toNat, Nat.mul_succ, Nat.pow_add, Nat.mod_mul, Nat.mul_comm (2 ^ (8 * count))]

/-- All the bytes of a value make the value. -/
theorem fromBytes_byteCount (x : BitVec n) :
    fromBytes (fun i => (byteOf x i).toNat) (byteCount n) = x.toNat := by
  rw [fromBytes_byteOf, Nat.mod_eq_of_lt (toNat_lt_two_pow_bytes x)]

/-- Inverted bytes and the bytes themselves add up to all ones, so one more is a power of two. -/
theorem fromBytes_not_add (x : BitVec n) (count : Nat) :
    fromBytes (fun i => (~~~byteOf x i).toNat) count + 1 + fromBytes (fun i => (byteOf x i).toNat) count =
      2 ^ (8 * count) := by
  induction count with
  | zero => rfl
  | succ count ih =>
    have hbyte : (~~~byteOf x count).toNat + (byteOf x count).toNat = 255 := by
      have := (byteOf x count).isLt
      rw [BitVec.toNat_not]; omega
    have htop : (~~~byteOf x count).toNat * 2 ^ (8 * count) + (byteOf x count).toNat * 2 ^ (8 * count) =
        255 * 2 ^ (8 * count) := by rw [← Nat.add_mul, hbyte]
    rw [fromBytes, fromBytes, Nat.mul_succ, Nat.pow_add]
    omega

/-! ### The top byte and its masks -/

/-- The sign bit is bit `(N-1) mod 8` of the top byte. -/
theorem sign_position (h : 1 ≤ n) : 8 * (byteCount n - 1) + (n - 1) % 8 = n - 1 := by unfold byteCount; omega

/-- `topMask` has the bits of the top byte up to the sign bit. -/
theorem topMask_getLsbD (h : 1 ≤ n) (k : Nat) :
    (topMask n).getLsbD k = decide (8 * (byteCount n - 1) + k < n) := by
  have hshift : byteCount n * 8 - n + k < 8 ↔ 8 * (byteCount n - 1) + k < n := by unfold byteCount; omega
  have hff : 0xFF#8 = BitVec.allOnes 8 := rfl
  rw [topMask, hff, BitVec.getLsbD_ushiftRight, BitVec.getLsbD_allOnes, decide_eq_decide]
  exact hshift

/-- `signMask` is the sign bit's place in the top byte. -/
theorem signMask_eq_twoPow (n : Nat) : signMask n = BitVec.twoPow 8 ((n - 1) % 8) := rfl

/-- Both masks are read off one number, the sign bit's place in the top byte. -/
theorem topMask_eq_ushiftRight (h : 1 ≤ n) : topMask n = 0xFF#8 >>> (7 - (n - 1) % 8) := by
  have : byteCount n * 8 - n = 7 - (n - 1) % 8 := by unfold byteCount; omega
  rw [topMask, this]

/-- Wherever the sign bit stands in the top byte, the mask up to it is that bit and the rest, and the two do not meet. -/
theorem sign_split_of_mask : ∀ m < 8,
    (1#8 <<< m) ||| (0xFF#8 >>> (7 - m) - 1#8 <<< m) = 0xFF#8 >>> (7 - m) ∧
    (1#8 <<< m) &&& (0xFF#8 >>> (7 - m) - 1#8 <<< m) = 0 := by decide

/-- `topMask` is the disjoint union of `signMask` and `unsignedMask`. -/
theorem signMask_unsignedMask (h : 1 ≤ n) :
    signMask n ||| unsignedMask n = topMask n ∧ signMask n &&& unsignedMask n = 0 := by
  rw [unsignedMask, signMask, topMask_eq_ushiftRight h]
  exact sign_split_of_mask _ (Nat.mod_lt _ (by decide))

/-- The top byte has no bit outside `topMask`. -/
theorem topByte_and_topMask (x : BitVec n) (h : 1 ≤ n) :
    byteOf x (byteCount n - 1) &&& topMask n = byteOf x (byteCount n - 1) := by
  apply BitVec.eq_of_getLsbD_eq
  intro k hk
  rw [BitVec.getLsbD_and, topMask_getLsbD h k, byteOf_getLsbD]
  by_cases hin : 8 * (byteCount n - 1) + k < n
  · simp [hin]
  · simp [BitVec.getLsbD_of_ge x _ (Nat.le_of_not_lt hin)]

/-- The bit of the top byte at the sign bit's place is the sign. -/
theorem topByte_sign (x : BitVec n) (h : 1 ≤ n) :
    (byteOf x (byteCount n - 1)).getLsbD ((n - 1) % 8) = x.msb := by
  have hlt : (n - 1) % 8 < 8 := Nat.mod_lt _ (by decide)
  rw [byteOf_getLsbD, sign_position h, BitVec.msb_eq_getLsbD_last]
  simp [hlt]

/-- A byte holds the whole of `signMask` exactly when it has the bit at the sign bit's place. -/
theorem and_signMask_eq_iff (b : BitVec 8) (n : Nat) :
    b &&& signMask n = signMask n ↔ b.getLsbD ((n - 1) % 8) = true := by
  have hne : (0 : BitVec 8) ≠ signMask n := by
    have key : ∀ m < 8, (0 : BitVec 8) ≠ 1#8 <<< m := by decide
    exact key _ (Nat.mod_lt _ (by decide))
  rw [signMask_eq_twoPow] at hne ⊢
  rw [BitVec.and_twoPow]
  split
  · simp [*]
  · simpa [*] using hne

/-! ### Complement and magnitude -/

/-- The complement as a number (R14). -/
theorem complement_toNat (x : BitVec n) : (complement x).toNat = (2 ^ n - x.toNat) % 2 ^ n := BitVec.toNat_neg x

@[simp] theorem complement_complement (x : BitVec n) : complement (complement x) = x := BitVec.neg_neg

/-- The lowest value has no positive counterpart. -/
@[simp] theorem complement_lowest (n : Nat) : complement (lowest n) = lowest n := BitVec.neg_intMin

/-- NOT of every byte, plus one, is the complement: added to the value it gives `2^(8*byteCount)`, which is 0 modulo `2^N`. -/
theorem complementBytes_eq (x : BitVec n) : complementBytes x = complement x := by
  have hsum := fromBytes_not_add x (byteCount n)
  rw [fromBytes_byteCount] at hsum
  have hzero : complementBytes x + x = 0 := by
    apply BitVec.eq_of_toNat_eq
    rw [complementBytes, BitVec.toNat_add, BitVec.toNat_ofNat, Nat.mod_add_mod, hsum]
    simpa using Nat.mod_eq_zero_of_dvd (Nat.pow_dvd_pow 2 (le_eight_mul_byteCount n))
  exact eq_neg_of_add_eq_zero_left hzero

/-- The magnitude pattern, read as unsigned, is the absolute value of the signed reading, for every width. -/
theorem mag_toNat (x : BitVec n) : (mag x).toNat = x.toInt.natAbs := by
  have hlt := x.isLt
  rw [mag, BitVec.toInt_eq_msb_cond]
  cases hm : x.msb with
  | false => simp
  | true =>
    have hpos : 0 < x.toNat := (Nat.two_pow_pos _).trans_le (BitVec.toNat_ge_of_msb_true hm)
    rw [if_pos rfl, if_pos rfl, complement_toNat, Nat.mod_eq_of_lt (by omega)]
    omega

end Sys2Proof.Machine

open Sys2Proof Sys2Proof.Machine

/-- Settles O34: the bytes below `byteCount` cover the whole value. -/
theorem bytesAddUpToTheValue : Obligations.BytesAddUpToTheValue :=
  fun _ x => fromBytes_byteCount x

/-- Settles O35, bit by bit for the mask and by the sign bit's place in the top byte for its two parts. -/
theorem topByteStaysInsideItsMask : Obligations.TopByteStaysInsideItsMask := by
  intro n x h
  have hsign : (byteOf x (byteCount n - 1) &&& signMask n = signMask n) ↔ x.msb = true := by
    rw [and_signMask_eq_iff, topByte_sign x h]
  exact ⟨topByte_and_topMask x h, hsign, signMask_unsignedMask h⟩

/-- Settles O37: the byte-wise form is the negate, whose laws then apply. -/
theorem byteNotPlusOneIsTheComplement : Obligations.ByteNotPlusOneIsTheComplement := by
  intro n x
  refine ⟨?_, complementBytes_eq x, ?_, ?_⟩
  · rw [complementBytes_eq, complement_toNat]
  · rw [complementBytes_eq, complementBytes_eq, complement_complement]
  · rw [complementBytes_eq, complement_lowest]

/-- Settles O39, by the sign of the value. -/
theorem magnitudeIsTheAbsoluteValue : Obligations.MagnitudeIsTheAbsoluteValue :=
  fun _ x _ => mag_toNat x
end

section
/-! Steps and runs: every command answers a next state, a step takes one command off the host's list, a run takes one a step
(spec 00_scope.md R16, 60_exceptions.md R250, R251). -/

namespace Sys2Proof.Machine

/-- The host's list in the form of `pending`, when its head is known. -/
theorem State.pending_of_cons {s : State} {c : Command s.cfg.wbus} {rest : List (Command s.cfg.wbus)}
    (h : s.cmds = c :: rest) : s.pending = (c.cw, c.din.toNat) :: rest.map fun c => (c.cw, c.din.toNat) := by
  rw [State.pending, h, List.map_cons]

/-- A fault answers a next state with the same parameters and the same list still to come. -/
theorem fail_next (k : Kind) (s : State) : ∃ t, fail k s = .next t ∧ t.cfg = s.cfg ∧ t.pending = s.pending :=
  ⟨raise k s, rfl, rfl, rfl⟩

/-- A command, completing or faulting, answers a next state with the same parameters and the same list still to come. -/
theorem exec_next (i : Instr) (s : State) : ∃ t, exec i s = .next t ∧ t.cfg = s.cfg ∧ t.pending = s.pending := by
  rcases exec_shape i s with ⟨k, -, hfail⟩ | ⟨y, fl, d, hdone⟩
  · rw [hfail]; exact fail_next k s
  · exact ⟨_, hdone, rfl, rfl⟩

/-- Accepting a command answers a next state whose list is what the host presents after it. -/
theorem issue_next (s : State) (c : Command s.cfg.wbus) (rest : List (Command s.cfg.wbus)) :
    ∃ t, issue s c rest = .next t ∧ t.cfg = s.cfg ∧ t.pending = rest.map fun c => (c.cw, c.din.toNat) := by
  rcases issue_cases s c rest with ⟨i, -, hexec⟩ | ⟨e, -, hfail⟩
  · rw [hexec]; exact exec_next i (s.accept c rest)
  · rw [hfail]; exact fail_next .illegal (s.accept c rest)

/-- A step answers a next state, keeps the parameters and takes the head off the host's list. -/
theorem step_next (s : State) : ∃ t, step s = .next t ∧ t.cfg = s.cfg ∧ t.pending = s.pending.tail := by
  cases h : s.cmds with
  | nil => exact ⟨s, step_nil h, rfl, by simp [State.pending, h]⟩
  | cons c rest =>
    rw [step_cons h, State.pending_of_cons h]
    exact issue_next s c rest

/-- A step whose command decodes is that command on the accepted state. -/
theorem step_of_decode {s : State} {c : Command s.cfg.wbus} {rest : List (Command s.cfg.wbus)} {i : Instr}
    (h : s.cmds = c :: rest) (hi : decode c.cw = .ok i) : step s = exec i (s.accept c rest) := by
  rw [step_cons h, issue, hi]

theorem run_zero (s : State) : Sys2Proof.core.run 0 s = .next s := rfl

/-- A machine's run of one step more is its run from the state the first step answers. -/
theorem coreRun_succ {M : Host.Core} {s t : M.State} (h : M.step s = .next t) (k : Nat) :
    M.run (k + 1) s = M.run k t := by
  rw [Host.Core.run, h]

/-- The same for the block's own step. -/
theorem run_succ {s t : State} (h : step s = .next t) (k : Nat) :
    Sys2Proof.core.run (k + 1) s = Sys2Proof.core.run k t :=
  @coreRun_succ Sys2Proof.core s t h k

/-- A run of `k` steps answers a next state, keeps the parameters and takes `k` commands off the host's list. -/
theorem run_next (k : Nat) (s : State) :
    ∃ t : State, Sys2Proof.core.run k s = .next t ∧ t.cfg = s.cfg ∧ t.pending = s.pending.drop k := by
  induction k generalizing s with
  | zero => exact ⟨s, run_zero s, rfl, rfl⟩
  | succ k ih =>
    obtain ⟨u, hstep, hcfg, hpending⟩ := step_next s
    obtain ⟨t, hrun, hcfg', hpending'⟩ := ih u
    refine ⟨t, (run_succ hstep k).trans hrun, hcfg'.trans hcfg, ?_⟩
    rw [hpending', hpending, List.drop_tail]

end Sys2Proof.Machine

open Sys2Proof Sys2Proof.Machine

/-- Settles O48, by the two cases of a step. -/
theorem stepIsTotal : Obligations.StepIsTotal := step_next

/-- Settles O49, by induction on the number of steps. -/
theorem runUsesUpTheCommandList : Obligations.RunUsesUpTheCommandList := run_next

/-- Settles O1. The decoder alone decides: well-formedness is checked again by the command's own meaning. -/
theorem stepRunsDecodedCommand : Obligations.StepRunsDecodedCommand :=
  fun _ _ _ _ hcmds hdecode _ => step_of_decode hcmds hdecode
end

section
/-! What a command does, apart from the state it does it to: the values it reads, the fault it takes if any, and what it writes when
it completes (spec 10_state.md R23, 60_exceptions.md R240 to R248). `exec_eq` says that executing a command is applying its effect, so
that what a command reads and what it writes can be seen from the effect alone. -/

namespace Sys2Proof.Machine

/-! ### Effects -/

/-- What one command does to the block `c`. -/
inductive Effect (c : Config) where
  /-- It faults (60_exceptions.md R248). -/
  | fault (k : Kind)
  /-- It completes with one register written. -/
  | write (rd : Reg) (v : BitVec c.n)
  /-- It completes with two registers written, `rd2` after `rd` (44_divide.md R177). -/
  | writeBoth (rd : Reg) (q : BitVec c.n) (rd2 : Reg) (v : BitVec c.n)
  /-- It completes with `DOUT` written. -/
  | out (d : BitVec c.wbus)
  /-- It completes with the flags of `TST` written for `v`. -/
  | test (v : BitVec c.n)
  /-- It completes with the flags of `CMP` written for the order `o`. -/
  | order (o : Ordering)
  /-- It completes with the flag of `FSB` and `DOUT` written for `v`. -/
  | find (v : BitVec c.n)

namespace Effect

variable {c : Config}

/-- The code the command ends with. -/
def code : Effect c → BitVec 3
  | .fault k => k.code
  | _ => 0

/-- The registers after the command. -/
def regs (x : Regs c.n) : Effect c → Regs c.n
  | .write rd v => x.set rd v
  | .writeBoth rd q rd2 v => (x.set rd q).set rd2 v
  | _ => x

/-- `FLAGS` after the command. -/
def flags (fl : BitVec 8) : Effect c → BitVec 8
  | .test v => tstFlags fl v
  | .order o => cmpFlags fl o
  | .find v => fsbFlags fl v
  | _ => fl

/-- `DOUT` after the command. -/
def dout (old : BitVec c.wbus) : Effect c → BitVec c.wbus
  | .out d => d
  | .find v => if v = 0 then BitVec.allOnes c.wbus else BitVec.ofNat c.wbus (fsbIndex v)
  | _ => old

/-- The fault `f` if there is one, else the effect `e`. -/
def guarded (f : Option Kind) (e : Effect c) : Effect c := f.elim e .fault

/-- The commands an effect can be of. -/
def Fits (i : Instr) : Effect c → Prop
  | .fault _ => True
  | .write rd _ => destinations i = [rd]
  | .writeBoth rd _ rd2 _ => destinations i = [rd, rd2]
  | .out _ => (∃ r b, i = .getbyte r b) ∨ (∃ r b, i = .getbit r b) ∨ ∃ r w, i = .castout r w
  | .test _ => ∃ r, i = .tst r
  | .order _ => ∃ a b, i = .cmp a b
  | .find _ => ∃ r, i = .fsb r

end Effect

/-- The state after the effect `e`. -/
def State.apply (s : State) (e : Effect s.cfg) : State :=
  { s with x := e.regs s.x, flags := e.flags s.flags, dout := e.dout s.dout, status := e.code,
           sticky := if s.sticky = 0 then e.code else s.sticky }

@[simp] theorem State.apply_cfg (s : State) (e : Effect s.cfg) : (s.apply e).cfg = s.cfg := rfl
@[simp] theorem State.apply_x (s : State) (e : Effect s.cfg) : (s.apply e).x = e.regs s.x := rfl
@[simp] theorem State.apply_flags (s : State) (e : Effect s.cfg) : (s.apply e).flags = e.flags s.flags := rfl
@[simp] theorem State.apply_dout (s : State) (e : Effect s.cfg) : (s.apply e).dout = e.dout s.dout := rfl
@[simp] theorem State.apply_status (s : State) (e : Effect s.cfg) : (s.apply e).status = e.code := rfl
@[simp] theorem State.apply_sticky (s : State) (e : Effect s.cfg) :
    (s.apply e).sticky = if s.sticky = 0 then e.code else s.sticky := rfl
@[simp] theorem State.apply_din (s : State) (e : Effect s.cfg) : (s.apply e).din = s.din := rfl
@[simp] theorem State.apply_cmds (s : State) (e : Effect s.cfg) : (s.apply e).cmds = s.cmds := rfl

/-! ### The effect of each command -/

/-- The value of the `k`-th register a command reads. -/
def operand {n : Nat} (x : Regs n) (i : Instr) (k : Nat) : BitVec n := ((sources i).map x.get).getD k 0

/-- Why a command faults, if it does; `b` is its second operand. -/
def faultOf (c : Config) (b : BitVec c.n) (din : BitVec c.wbus) : Instr → Option Kind
  | .getbyte _ idx | .setbyte _ idx => if byteCount c.n ≤ idx.toNat then some .indexOutOfRange else none
  | .getbit _ idx | .setbit _ idx | .sext _ _ idx => if c.n ≤ idx.toNat then some .indexOutOfRange else none
  | .div _ _ _ | .mod _ _ _ => if b = 0 then some .divideByZero else none
  | .divmod rd rd2 _ _ => if rd = rd2 then some .illegal else if b = 0 then some .divideByZero else none
  | .castin _ width | .castout _ width =>
    if width.toNat = 0 ∨ c.wbus < width.toNat then some .illegal else none
  | .ldnc _ width =>
    if ¬(width.toNat = 8 ∨ width.toNat = 16 ∨ width.toNat = 32 ∨ width.toNat = 64) then some .illegal
    else if fitsSigned c.n (din.setWidth width.toNat).toInt then none else some .narrowingOverflow
  | _ => none

/-- What a command does when it completes; `a` and `b` are its operands. -/
def action (c : Config) (a b : BitVec c.n) (din : BitVec c.wbus) : Instr → Effect c
  | .clr rd => .write rd 0
  | .mov rd _ => .write rd a
  | .getbyte _ idx => .out ((byteOf a idx.toNat).setWidth c.wbus)
  | .setbyte rd idx => .write rd (setByteOf a idx.toNat (din.setWidth 8))
  | .getbit _ idx => .out ((BitVec.ofBool (a.getLsbD idx.toNat)).setWidth c.wbus)
  | .setbit rd idx => .write rd (setBitOf a idx.toNat (din.getLsbD 0))
  | .ldlow rd => .write rd (lowest c.n)
  | .ldmax rd => .write rd (highest c.n)
  | .tst _ => .test a
  | .neg rd _ => .write rd (complement a)
  | .sext rd _ f => .write rd (signExtendFrom a f.toNat)
  | .fsb _ => .find a
  | .add rd _ _ => .write rd (addOf a b)
  | .sub rd _ _ => .write rd (subOf a b)
  | .inc rd _ => .write rd (addOf a (BitVec.ofNat c.n 1))
  | .dec rd _ => .write rd (subOf a (BitVec.ofNat c.n 1))
  | .mul rd _ _ => .write rd (mulOf a b)
  | .div rd _ _ => .write rd (sdivmod a b).1
  | .mod rd _ _ => .write rd (sdivmod a b).2
  | .divmod rd rd2 _ _ => .writeBoth rd (sdivmod a b).1 rd2 (sdivmod a b).2
  | .and rd _ _ => .write rd (a &&& b)
  | .or rd _ _ => .write rd (a ||| b)
  | .xor rd _ _ => .write rd (a ^^^ b)
  | .shl rd _ k => .write rd (shlOf a k.toNat)
  | .shr rd _ k => .write rd (shrOf a k.toNat)
  | .cmp _ _ => .order (compareOf a b)
  | .castin rd width => .write rd (castOf c.n (din.setWidth width.toNat))
  | .castout _ width => .out ((castOf width.toNat a).setWidth c.wbus)
  | .ldnc rd width => .write rd (BitVec.ofInt c.n (din.setWidth width.toNat).toInt)

/-- The effect of a command in the block `c`: a function of the registers it names as sources and of `DIN`, and of no other part of
the state. -/
def effect (c : Config) (x : Regs c.n) (din : BitVec c.wbus) (i : Instr) : Effect c :=
  .guarded (faultOf c (operand x i 1) din i) (action c (operand x i 0) (operand x i 1) din i)

/-! ### Executing a command is applying its effect -/

variable {s : State}

/-- A fault applies as the fault it is. -/
theorem fail_eq_apply (s : State) (k : Kind) : fail k s = .next (s.apply (.fault k)) := rfl

/-- An effect with code 0 leaves `STICKY` as it is. -/
theorem apply_of_code_zero {e : Effect s.cfg} (h : e.code = 0) :
    done { s with x := e.regs s.x, flags := e.flags s.flags, dout := e.dout s.dout } = .next (s.apply e) := by
  have hsticky : (if s.sticky = 0 then 0 else s.sticky) = s.sticky := by split <;> simp_all
  rw [State.apply, h, hsticky]
  rfl

theorem write_eq_apply (s : State) (rd : Reg) (v : BitVec s.cfg.n) :
    done (s.setReg rd v) = .next (s.apply (.write rd v)) := apply_of_code_zero (e := .write rd v) rfl

theorem out_eq_apply (s : State) (d : BitVec s.cfg.wbus) :
    done (s.setDout d) = .next (s.apply (.out d)) := apply_of_code_zero (e := .out d) rfl

/-- A check made before a command: a fault if it fails, else what the command does otherwise. -/
theorem check_eq_apply {p : Prop} [Decidable p] {k : Kind} {r : Result} {f : Option Kind} {e : Effect s.cfg}
    (h : ¬p → r = .next (s.apply (.guarded f e))) :
    (if p then fail k s else r) = .next (s.apply (.guarded (if p then some k else f) e)) := by
  split
  · rfl
  · exact h ‹_›

/-- Executing a command is applying its effect. -/
theorem exec_eq (i : Instr) (s : State) : exec i s = .next (s.apply (effect s.cfg s.x s.din i)) := by
  cases i with
  | clr rd => exact write_eq_apply s rd _
  | mov rd rs1 => exact write_eq_apply s rd _
  | getbyte rs1 idx => exact check_eq_apply fun _ => out_eq_apply s _
  | setbyte rd idx => exact check_eq_apply fun _ => write_eq_apply s rd _
  | getbit rs1 idx => exact check_eq_apply fun _ => out_eq_apply s _
  | setbit rd idx => exact check_eq_apply fun _ => write_eq_apply s rd _
  | ldlow rd => exact write_eq_apply s rd _
  | ldmax rd => exact write_eq_apply s rd _
  | tst rs1 => exact apply_of_code_zero (e := .test _) rfl
  | neg rd rs1 => exact write_eq_apply s rd _
  | sext rd rs1 f => exact check_eq_apply fun _ => write_eq_apply s rd _
  | fsb rs1 => exact apply_of_code_zero (e := .find _) rfl
  | add rd rs1 rs2 => exact write_eq_apply s rd _
  | sub rd rs1 rs2 => exact write_eq_apply s rd _
  | inc rd rs1 => exact write_eq_apply s rd _
  | dec rd rs1 => exact write_eq_apply s rd _
  | mul rd rs1 rs2 => exact write_eq_apply s rd _
  | div rd rs1 rs2 => exact check_eq_apply fun _ => write_eq_apply s rd _
  | mod rd rs1 rs2 => exact check_eq_apply fun _ => write_eq_apply s rd _
  | divmod rd rd2 rs1 rs2 =>
    exact check_eq_apply fun _ => check_eq_apply fun _ => apply_of_code_zero (e := .writeBoth rd _ rd2 _) rfl
  | and rd rs1 rs2 => exact write_eq_apply s rd _
  | or rd rs1 rs2 => exact write_eq_apply s rd _
  | xor rd rs1 rs2 => exact write_eq_apply s rd _
  | shl rd rs1 k => exact write_eq_apply s rd _
  | shr rd rs1 k => exact write_eq_apply s rd _
  | cmp rs1 rs2 => exact apply_of_code_zero (e := .order _) rfl
  | castin rd width => exact check_eq_apply fun _ => write_eq_apply s rd _
  | castout rs1 width => exact check_eq_apply fun _ => out_eq_apply s _
  | ldnc rd width =>
    refine check_eq_apply fun _ => ?_
    rw [State.dinLow]
    split
    · exact write_eq_apply s rd _
    · rfl

end Sys2Proof.Machine
end

section
/-! What an effect reads and writes, and what a step can do: the facts about effects from which the rules of the state follow
(spec 10_state.md R23, R27, R29, R34; 60_exceptions.md R240, R247). -/

namespace Sys2Proof.Machine

variable {c : Config}

/-! ### What an effect depends on -/

/-- An effect is the effect of a fault, or the action of the command. -/
theorem effect_cases (c : Config) (x : Regs c.n) (din : BitVec c.wbus) (i : Instr) :
    (∃ k, effect c x din i = .fault k) ∨ effect c x din i = action c (operand x i 0) (operand x i 1) din i := by
  rw [effect]
  cases faultOf c (operand x i 1) din i with
  | none => exact .inr rfl
  | some k => exact .inl ⟨k, rfl⟩

/-- A command's operands depend on no register but its sources. -/
theorem operand_congr {n : Nat} {x y : Regs n} {i : Instr} (h : ∀ r, r ∈ sources i → y.get r = x.get r) (k : Nat) :
    operand y i k = operand x i k := by
  rw [operand, List.map_congr_left h, operand]

/-- A command's effect depends on no register but its sources. -/
theorem effect_congr {x y : Regs c.n} {i : Instr} (h : ∀ r, r ∈ sources i → y.get r = x.get r) (din : BitVec c.wbus) :
    effect c y din i = effect c x din i := by
  rw [effect, operand_congr h, operand_congr h, effect]

/-- What a command does fits the command: it writes the listed destinations (R23), and `FLAGS` and `DOUT` for their owners only
(R27, R34). -/
theorem effect_fits (c : Config) (x : Regs c.n) (din : BitVec c.wbus) (i : Instr) : (effect c x din i).Fits i := by
  rcases effect_cases c x din i with ⟨k, hfault⟩ | haction
  · rw [hfault]; trivial
  · rw [haction]
    cases i with
    | getbyte rs1 idx => exact .inl ⟨_, _, rfl⟩
    | getbit rs1 idx => exact .inr (.inl ⟨_, _, rfl⟩)
    | castout rs1 width => exact .inr (.inr ⟨_, _, rfl⟩)
    | tst rs1 => exact ⟨_, rfl⟩
    | cmp rs1 rs2 => exact ⟨_, _, rfl⟩
    | fsb rs1 => exact ⟨_, rfl⟩
    | _ => rfl

/-- The codes of effects are those this hardware produces (60_exceptions.md R240, R245). -/
theorem effect_code_legal (c : Config) (x : Regs c.n) (din : BitVec c.wbus) (i : Instr) :
    legalCode (effect c x din i).code := by
  have hexec := exec_eq i { State.resetAt c with x := x, din := din }
  rcases exec_shape i { State.resetAt c with x := x, din := din } with ⟨k, hk, hfail⟩ | ⟨y, fl, d, hdone⟩
  · have hcode : k.code = (effect c x din i).code := congrArg State.status (fail_eq_next.mp (hfail.symm.trans hexec)).symm
    rw [← hcode]
    unfold legalCode
    cases k with
    | invalidDigit => exact absurd rfl hk
    | _ => decide
  · rw [hexec] at hdone
    injection hdone with hdone
    exact .inl (congrArg State.status hdone)

/-- Executing a command from states that differ in `FLAGS` only ends in states that differ in `FLAGS` only. -/
theorem exec_with_flags (i : Instr) (s : State) (fl : BitVec 8) :
    ∃ t fl', exec i s = .next t ∧ exec i { s with flags := fl } = .next { t with flags := fl' } :=
  ⟨_, _, exec_eq i s, exec_eq i { s with flags := fl }⟩

/-- The same for `DOUT`. -/
theorem exec_with_dout (i : Instr) (s : State) (d : BitVec s.cfg.wbus) :
    ∃ t d', exec i s = .next t ∧ exec i { s with dout := d } = .next { t with dout := d' } :=
  ⟨_, _, exec_eq i s, exec_eq i { s with dout := d }⟩

/-! ### What an effect writes -/

namespace Effect

/-- A register that is no destination keeps its value. -/
theorem get_regs_of_not_mem {e : Effect c} {i : Instr} (h : e.Fits i) (x : Regs c.n) {r : Reg} (hr : r ∉ destinations i) :
    (e.regs x).get r = x.get r := by
  cases e with
  | write rd v =>
    have hd : destinations i = [rd] := h
    simp_all [regs]
  | writeBoth rd q rd2 v =>
    have hd : destinations i = [rd, rd2] := h
    simp_all [regs]
  | _ => rfl

/-- A destination of a command that completes takes a value that does not depend on the registers before. -/
theorem get_regs_of_mem {e : Effect c} {i : Instr} (h : e.Fits i) (hcode : e.code = 0) (x y : Regs c.n) {r : Reg}
    (hr : r ∈ destinations i) : (e.regs x).get r = (e.regs y).get r := by
  cases e with
  | fault k => exact absurd hcode k.code_ne_zero
  | write rd v =>
    have hd : destinations i = [rd] := h
    simp_all [regs]
  | writeBoth rd q rd2 v =>
    have hd : destinations i = [rd, rd2] := h
    rw [hd, List.mem_pair] at hr
    rcases hr with rfl | rfl <;> simp [regs]
  | out d => rcases h with ⟨_, _, rfl⟩ | ⟨_, _, rfl⟩ | ⟨_, _, rfl⟩ <;> exact absurd hr List.not_mem_nil
  | test v => obtain ⟨_, rfl⟩ := h; exact absurd hr List.not_mem_nil
  | order o => obtain ⟨_, _, rfl⟩ := h; exact absurd hr List.not_mem_nil
  | find v => obtain ⟨_, rfl⟩ := h; exact absurd hr List.not_mem_nil

/-- A bit of `FLAGS` that changes is one its command owns (10_state.md R27). -/
theorem owner_of_flag_ne {e : Effect c} {i : Instr} (h : e.Fits i) {fl : BitVec 8} {j : Nat}
    (hne : (e.flags fl).getLsbD j ≠ fl.getLsbD j) :
    (∃ r, i = .tst r ∧ j ≤ 3) ∨ (∃ a b, i = .cmp a b ∧ 4 ≤ j ∧ j ≤ 6) ∨ (∃ r, i = .fsb r ∧ j = 7) := by
  cases e with
  | test v =>
    obtain ⟨r, rfl⟩ := h
    refine .inl ⟨r, rfl, ?_⟩
    by_contra hj
    refine hne ((tstFlags_getLsbD fl v j).trans ?_)
    rw [if_neg (by omega), if_neg (by omega), if_neg (by omega), if_neg (by omega)]
  | order o =>
    obtain ⟨a, b, rfl⟩ := h
    refine .inr (.inl ⟨a, b, rfl, ?_⟩)
    by_contra hj
    refine hne ((cmpFlags_getLsbD fl o j).trans ?_)
    rw [if_neg (by omega), if_neg (by omega), if_neg (by omega)]
  | find v =>
    obtain ⟨r, rfl⟩ := h
    refine .inr (.inr ⟨r, rfl, ?_⟩)
    by_contra hj
    exact hne ((fsbFlags_getLsbD fl v j).trans (if_neg hj))
  | _ => exact absurd rfl hne

/-- A command that changes `DOUT` completes and is one of its four owners (10_state.md R34). -/
theorem owner_of_dout_ne {e : Effect c} {i : Instr} (h : e.Fits i) {d : BitVec c.wbus} (hne : e.dout d ≠ d) :
    e.code = 0 ∧
      ((∃ r b, i = .getbyte r b) ∨ (∃ r b, i = .getbit r b) ∨ (∃ r, i = .fsb r) ∨ (∃ r w, i = .castout r w)) := by
  cases e with
  | out v =>
    rcases h with hbyte | hbit | hcast
    · exact ⟨rfl, .inl hbyte⟩
    · exact ⟨rfl, .inr (.inl hbit)⟩
    · exact ⟨rfl, .inr (.inr (.inr hcast))⟩
  | find v => exact ⟨rfl, .inr (.inr (.inl h))⟩
  | _ => exact absurd rfl hne

end Effect

/-! ### Commands that do not observe the registers -/

/-- Whether such a command faults does not depend on its operands (60_exceptions.md R241 is the one kind that does). -/
theorem faultOf_of_not_observes {i : Instr} (h : observesRegisters i = false) (b b' : BitVec c.n) (din : BitVec c.wbus) :
    faultOf c b din i = faultOf c b' din i := by
  cases i with
  | div | mod | divmod => cases h
  | _ => rfl

/-- When it completes, such a command writes one register and nothing else. -/
theorem action_of_not_observes {i : Instr} (h : observesRegisters i = false) (a b : BitVec c.n) (din : BitVec c.wbus) :
    ∃ rd v, action c a b din i = .write rd v := by
  cases i with
  | getbyte | getbit | castout | tst | cmp | fsb | div | mod | divmod => cases h
  | _ => exact ⟨_, _, rfl⟩

/-- The ports after it do not depend on the registers. -/
theorem effect_ports_of_not_observes {i : Instr} (h : observesRegisters i = false) (x y : Regs c.n) (din : BitVec c.wbus) :
    (effect c x din i).code = (effect c y din i).code ∧
    (∀ fl, (effect c x din i).flags fl = (effect c y din i).flags fl) ∧
    ∀ d, (effect c x din i).dout d = (effect c y din i).dout d := by
  obtain ⟨rd, v, hx⟩ := action_of_not_observes h (operand x i 0) (operand x i 1) din
  obtain ⟨rd', v', hy⟩ := action_of_not_observes h (operand y i 0) (operand y i 1) din
  rw [effect, effect, hx, hy, faultOf_of_not_observes h (operand x i 1) (operand y i 1)]
  cases faultOf c (operand y i 1) din i with
  | none => exact ⟨rfl, fun _ => rfl, fun _ => rfl⟩
  | some k => exact ⟨rfl, fun _ => rfl, fun _ => rfl⟩

/-! ### What a step can do -/

/-- The effects a command word can have: `ILLEGAL` if it does not decode (60_exceptions.md R244), else its command's. -/
def IsEffectOf (cw : CmdWord) (x : Regs c.n) (din : BitVec c.wbus) (e : Effect c) : Prop :=
  e = .fault .illegal ∨ ∃ i, decode cw = .ok i ∧ e = effect c x din i

/-- A step holds the state, or applies to the accepted state an effect of the command accepted. -/
theorem step_cases {s t : State} (h : step s = .next t) :
    (s.cmds = [] ∧ t = s) ∨
    ∃ cmd rest, ∃ e : Effect s.cfg, s.cmds = cmd :: rest ∧ IsEffectOf cmd.cw s.x cmd.din e ∧
      t = State.apply { s with din := cmd.din, cmds := rest } e := by
  cases hcmds : s.cmds with
  | nil =>
    rw [step_nil hcmds] at h
    injection h with h
    exact .inl ⟨rfl, h.symm⟩
  | cons cmd rest =>
    rw [step_cons hcmds] at h
    refine .inr ⟨cmd, rest, ?_⟩
    rcases issue_cases s cmd rest with ⟨i, hi, hexec⟩ | ⟨_, -, hfail⟩
    · rw [hexec, exec_eq] at h
      injection h with h
      exact ⟨_, rfl, .inr ⟨i, hi, rfl⟩, h.symm⟩
    · rw [hfail, fail_eq_apply] at h
      injection h with h
      exact ⟨_, rfl, .inl rfl, h.symm⟩

/-- The code a command word ends with is one this hardware produces. -/
theorem IsEffectOf.code_legal {cw : CmdWord} {x : Regs c.n} {din : BitVec c.wbus} {e : Effect c}
    (h : IsEffectOf cw x din e) : legalCode e.code := by
  rcases h with rfl | ⟨i, -, rfl⟩
  · exact .inr (.inr (.inr (.inr rfl)))
  · exact effect_code_legal c x din i

end Sys2Proof.Machine
end

section
/-! The rules of the state: which flags can be set together and that every step keeps them so, what `STICKY` tells about a run, and
the statements about the state (spec 10_state.md). -/

namespace Sys2Proof.Machine

/-! ### The legal values of `FLAGS` -/

/-- The clauses of the invariant about `FLAGS` (41_sign_magnitude.md R121 (c), 46_compare.md R212); `inv_iff` ties them to it. -/
structure FlagsLegal (fl : BitVec 8) : Prop where
  one_sign : (fl.getLsbD 0 && fl.getLsbD 1) = false
  low_is_negative : fl.getLsbD 2 = true → fl.getLsbD 0 = true
  max_is_positive : fl.getLsbD 3 = true → fl.getLsbD 1 = true
  one_order : (fl.getLsbD 4 && fl.getLsbD 5) = false ∧ (fl.getLsbD 4 && fl.getLsbD 6) = false ∧
    (fl.getLsbD 5 && fl.getLsbD 6) = false

/-- The invariant, by the part of the state its clauses speak of. -/
theorem inv_iff (s : State) :
    s.Inv ↔ legalCode s.status ∧ legalCode s.sticky ∧ (s.sticky = 0 → s.status = 0) ∧ FlagsLegal s.flags :=
  ⟨fun ⟨hst, hsy, hno, h1, h2, h3, h4⟩ => ⟨hst, hsy, hno, h1, h2, h3, h4⟩,
   fun ⟨hst, hsy, hno, h1, h2, h3, h4⟩ => ⟨hst, hsy, hno, h1, h2, h3, h4⟩⟩

/-- The lowest value of at least one bit is negative. -/
theorem lowest_msb {n : Nat} (h : 1 ≤ n) : (lowest n).msb = true := by
  rw [BitVec.msb_eq_getLsbD_last, lowest_getLsbD _ (by omega), decide_eq_true rfl]

/-- The highest value of at least one bit is not negative. -/
theorem highest_msb {n : Nat} (h : 1 ≤ n) : (highest n).msb = false := by
  rw [BitVec.msb_eq_getLsbD_last, highest_getLsbD _ (by omega)]
  simp

variable {fl : BitVec 8}

/-- `TST` writes one sign, and an extreme only with its sign. -/
theorem FlagsLegal.tstFlags (h : FlagsLegal fl) {n : Nat} (hn : 1 ≤ n) (v : BitVec n) : FlagsLegal (tstFlags fl v) where
  one_sign := by
    simp only [tstFlags_getLsbD]
    exact Bool.and_not_self v.msb
  low_is_negative := by
    simp only [tstFlags_getLsbD]
    intro hv
    rw [eq_of_beq hv]
    exact lowest_msb hn
  max_is_positive := by
    simp only [tstFlags_getLsbD]
    intro hv
    rw [eq_of_beq hv]
    exact congrArg not (highest_msb hn)
  one_order := by
    simp only [tstFlags_getLsbD]
    exact h.one_order

/-- `CMP` writes the one order that holds. -/
theorem FlagsLegal.cmpFlags (h : FlagsLegal fl) (o : Ordering) : FlagsLegal (cmpFlags fl o) where
  one_sign := by
    simp only [cmpFlags_getLsbD]
    exact h.one_sign
  low_is_negative := by
    simp only [cmpFlags_getLsbD]
    exact h.low_is_negative
  max_is_positive := by
    simp only [cmpFlags_getLsbD]
    exact h.max_is_positive
  one_order := by
    simp only [cmpFlags_getLsbD]
    cases o <;> exact ⟨rfl, rfl, rfl⟩

/-- `FSB` leaves the sign, the extremes and the order as they are. -/
theorem FlagsLegal.fsbFlags (h : FlagsLegal fl) {n : Nat} (v : BitVec n) : FlagsLegal (fsbFlags fl v) where
  one_sign := by
    simp only [fsbFlags_getLsbD]
    exact h.one_sign
  low_is_negative := by
    simp only [fsbFlags_getLsbD]
    exact h.low_is_negative
  max_is_positive := by
    simp only [fsbFlags_getLsbD]
    exact h.max_is_positive
  one_order := by
    simp only [fsbFlags_getLsbD]
    exact h.one_order

/-- No effect makes the flags illegal. -/
theorem FlagsLegal.effect_flags {c : Config} (h : FlagsLegal fl) (e : Effect c) : FlagsLegal (e.flags fl) := by
  cases e with
  | test v => exact h.tstFlags c.n_pos v
  | order o => exact h.cmpFlags o
  | find v => exact h.fsbFlags v
  | _ => exact h

/-! ### The invariant -/

/-- An effect with a code that is produced keeps the state legal. -/
theorem State.Inv.apply {s : State} (h : s.Inv) {e : Effect s.cfg} (hcode : legalCode e.code) : (s.apply e).Inv := by
  rw [inv_iff] at h ⊢
  obtain ⟨-, hsticky, -, hflags⟩ := h
  refine ⟨hcode, ?_, ?_, hflags.effect_flags e⟩
  · rw [State.apply_sticky]
    split
    · exact hcode
    · exact hsticky
  · rw [State.apply_sticky, State.apply_status]
    split
    · exact id
    · exact fun hzero => absurd hzero ‹_›

/-- Accepting a command keeps the state legal: the invariant does not speak of the sampled data and the list. -/
theorem State.Inv.accept {s : State} (h : s.Inv) (cmd : Command s.cfg.wbus) (rest : List (Command s.cfg.wbus)) :
    (s.accept cmd rest).Inv := (inv_iff _).mpr ((inv_iff s).mp h)

/-- Every step keeps the state legal. -/
theorem State.Inv.step {s t : State} (h : s.Inv) (hstep : step s = .next t) : t.Inv := by
  rcases step_cases hstep with ⟨-, rfl⟩ | ⟨cmd, rest, e, -, he, rfl⟩
  · exact h
  · exact (h.accept cmd rest).apply (e := e) he.code_legal

/-- With `FLAGS` zero and no code, a state is legal. -/
theorem inv_of_zero {s : State} (hstatus : s.status = 0) (hsticky : s.sticky = 0) (hflags : s.flags = 0) : s.Inv := by
  rw [inv_iff, hstatus, hsticky, hflags]
  exact ⟨.inl rfl, .inl rfl, fun _ => rfl, by decide, by decide, by decide, by decide⟩

/-! ### `STICKY` along a run -/

/-- After a command `STICKY` holds its code, or the value it had (10_state.md R29). -/
theorem step_sticky {s t : State} (hcmds : s.cmds ≠ []) (hstep : step s = .next t) :
    t.sticky = if s.sticky = 0 then t.status else s.sticky := by
  rcases step_cases hstep with ⟨hnil, -⟩ | ⟨cmd, rest, e, -, -, rfl⟩
  · exact absurd hnil hcmds
  · rfl

/-- A step never clears `STICKY`. -/
theorem noFault_of_step {s t : State} (hstep : step s = .next t) (ht : t.noFault) : s.noFault := by
  by_cases hcmds : s.cmds = []
  · rw [step_nil hcmds] at hstep
    injection hstep with hstep
    exact hstep ▸ ht
  · by_contra hs
    exact hs (((step_sticky hcmds hstep).trans (if_neg hs)).symm.trans ht)

/-- Nothing but completed commands comes before a state with no fault recorded. -/
theorem run_without_fault {k : Nat} {s t : State} (hs : s.Inv) (hrun : Sys2Proof.core.run k s = .next t) (ht : t.noFault) :
    ∀ j, j ≤ k → ∃ u, Sys2Proof.core.run j s = .next u ∧ State.noFault u ∧ State.status u = 0 := by
  induction k generalizing s with
  | zero =>
    intro j hj
    obtain rfl : j = 0 := by omega
    injection (run_zero s).symm.trans hrun with hst
    subst hst
    exact ⟨s, run_zero s, ht, hs.no_fault_no_code ht⟩
  | succ k ih =>
    obtain ⟨s', hstep, -, -⟩ := step_next s
    have hlater := ih (hs.step hstep) ((run_succ hstep k).symm.trans hrun)
    rintro (_ | j) hj
    · obtain ⟨u, hu, hnoFault, -⟩ := hlater 0 (Nat.zero_le k)
      injection (run_zero s').symm.trans hu with hus
      subst hus
      have hsticky := noFault_of_step hstep hnoFault
      exact ⟨s, run_zero s, hsticky, hs.no_fault_no_code hsticky⟩
    · rw [run_succ hstep j]
      exact hlater j (by omega)

end Sys2Proof.Machine

open Sys2Proof Sys2Proof.Machine

/-- Settles O57, by the two cases of a step and the clauses of the invariant for each effect. -/
theorem stepKeepsTheStateLegal : Obligations.StepKeepsTheStateLegal := fun _ _ hs hstep => hs.step hstep

/-- Settles O51: the first part is what an effect does to `STICKY`, the second the reset edge. -/
theorem stickyKeepsTheFirstFault : Obligations.StickyKeepsTheFirstFault :=
  ⟨fun _ _ hcmds hstep => step_sticky hcmds hstep, State.rst_sticky⟩

/-- Settles O52: an effect names the owner of each flag it writes, and is a function of other parts of the state than `FLAGS`. -/
theorem flagsHaveOwners : Obligations.FlagsHaveOwners := by
  refine ⟨fun s t j hstep hne => ?_, fun s fl i => ?_⟩
  · rcases step_cases hstep with ⟨-, rfl⟩ | ⟨cmd, rest, e, hcmds, he, rfl⟩
    · exact absurd rfl hne
    · rw [State.apply_flags] at hne
      rcases he with rfl | ⟨i, hi, rfl⟩
      · exact absurd rfl hne
      · exact ⟨cmd, rest, i, hcmds, hi, Effect.owner_of_flag_ne (effect_fits _ _ _ i) hne⟩
  · obtain ⟨t, _, ht, hu⟩ := exec_with_flags i s fl
    exact ⟨t, _, ht, hu, fun _ => rfl, rfl, rfl, rfl⟩

/-- Settles O53: an effect names the owner of the `DOUT` it writes, and is a function of other parts of the state than `DOUT`. -/
theorem doutHasOwners : Obligations.DoutHasOwners := by
  refine ⟨fun s t hstep hne => ?_, fun s d i => ?_⟩
  · rcases step_cases hstep with ⟨-, rfl⟩ | ⟨cmd, rest, e, hcmds, he, rfl⟩
    · exact absurd rfl hne
    · rcases he with rfl | ⟨i, hi, rfl⟩
      · exact absurd rfl hne
      · obtain ⟨hcode, howner⟩ :=
          Effect.owner_of_dout_ne (effect_fits _ _ _ i) fun hd => hne (congrArg BitVec.toNat hd)
        exact ⟨cmd, rest, i, hcmds, hi, hcode, howner⟩
  · obtain ⟨t, _, ht, hu⟩ := exec_with_dout i s d
    exact ⟨t, _, ht, hu, fun _ => rfl, rfl, rfl, rfl⟩

/-- Settles O54: an effect writes the listed destinations, and is a function of the listed sources. -/
theorem registersReadAndWrittenAreTheListedOnes : Obligations.RegistersReadAndWrittenAreTheListedOnes := by
  refine ⟨fun s t i r hexec hne => ?_, fun s y i hy => ?_⟩
  · obtain rfl : s.apply (effect s.cfg s.x s.din i) = t := by
      rw [exec_eq] at hexec
      injection hexec
    by_contra hr
    exact hne (congrArg BitVec.toNat (Effect.get_regs_of_not_mem (effect_fits _ _ _ i) s.x hr))
  · have hu : exec i { s with x := y } = .next (State.apply { s with x := y } (effect s.cfg s.x s.din i)) := by
      rw [exec_eq, ← effect_congr hy s.din]
    exact ⟨_, _, exec_eq i s, hu, rfl, rfl, rfl, rfl, fun hcode r hr =>
      congrArg BitVec.toNat (Effect.get_regs_of_mem (effect_fits _ _ _ i) hcode y s.x hr)⟩

/-- Settles O56: without an observing command, registers decide neither whether a fault occurs nor what is written outside them. -/
theorem portsHideTheRegisters : Obligations.PortsHideTheRegisters := by
  intro s y i hi
  obtain ⟨hcode, hflags, hdout⟩ := effect_ports_of_not_observes hi s.x y s.din
  refine ⟨_, _, exec_eq i s, exec_eq i { s with x := y }, ?_⟩
  simp only [State.outputs, State.apply, hcode, hflags, hdout]

/-- Settles O59, by induction on the run: the invariant goes forward, the empty `STICKY` goes back. -/
theorem runWithoutFaultCompletesEveryCommand : Obligations.RunWithoutFaultCompletesEveryCommand :=
  fun _ _ _ hs hrun ht => run_without_fault hs hrun ht

/-- Settles O47, field by field. -/
theorem resetLeavesEverythingZero : Obligations.ResetLeavesEverythingZero := by
  refine ⟨fun s => ⟨Regs.get_zero, State.rst_flags s, State.rst_dout s, State.rst_status s, State.rst_sticky s,
    State.rst_cfg s, ?_⟩, Config.default, rfl⟩
  exact ⟨rfl, fun _ => rfl, rfl, rfl, rfl, rfl⟩

/-- Settles O58: at reset every part of the state the invariant speaks of is zero. -/
theorem resetStateIsLegal : Obligations.ResetStateIsLegal := fun _ _ => inv_of_zero rfl rfl rfl
end

section
/-! Storage read back: what `SETBYTE`, `GETBYTE` and `GETBIT` answer for an index inside the register, and the byte stored seen
through both views (spec 20_memory.md R51 to R53, 40_storage_access.md R103 to R105). -/

namespace Sys2Proof.Machine

variable {n : Nat}

/-! ### The byte stored, in the byte view -/

/-- A bit of the byte stored that exists stands at its place in the value. -/
theorem setByteOf_getLsbD_byte (x : BitVec n) (i : Nat) (d : BitVec 8) {k : Nat} (hk : k < 8) (hj : 8 * i + k < n) :
    (setByteOf x i d).getLsbD (8 * i + k) = d.getLsbD k := by
  rw [setByteOf_getLsbD x i d hj, if_pos (by omega), Nat.add_sub_cancel_left]

/-- The byte read back holds the bits of the byte stored that exist: those below `N` (decision D20). -/
theorem byteOf_setByteOf_toNat (x : BitVec n) (i : Nat) (d : BitVec 8) :
    (byteOf (setByteOf x i d) i).toNat = d.toNat % 2 ^ min 8 (n - 8 * i) := by
  refine Nat.eq_of_testBit_eq fun k => ?_
  rw [BitVec.testBit_toNat, byteOf_getLsbD, Nat.testBit_mod_two_pow, BitVec.testBit_toNat]
  have hexists : k < min 8 (n - 8 * i) ↔ k < 8 ∧ 8 * i + k < n := by omega
  by_cases hk : k < 8
  · by_cases hj : 8 * i + k < n
    · simp only [setByteOf_getLsbD_byte x i d hk hj, hexists, hk, hj, and_self]
    · simp [hexists, hj, BitVec.getLsbD_of_ge _ _ (Nat.le_of_not_lt hj)]
  · simp [hk]

/-! ### The commands, for an index inside the register -/

/-- What is put on `DOUT` fits it, so its value stays. -/
theorem State.zext_toNat (s : State) {w : Nat} (h : w ≤ s.cfg.wbus) (v : BitVec w) : (s.zext v).toNat = v.toNat :=
  BitVec.toNat_setWidth_of_le h

/-- A register just written holds the value written. -/
@[simp] theorem State.reg_complete_setReg (s : State) (rd : Reg) (v : BitVec s.cfg.n) :
    (complete (s.setReg rd v)).reg rd = v := (Regs.get_set s.x rd rd v).trans (if_pos rfl)

/-- `SETBYTE` of a byte that exists completes with the byte replaced (R104). -/
theorem exec_setbyte_of_lt {s : State} {i : Imm} (rd : Reg) (h : i.toNat < byteCount s.cfg.n) :
    exec (.setbyte rd i) s = .next (complete (s.setReg rd (setByteOf (s.reg rd) i.toNat s.dinByte))) :=
  if_neg (Nat.not_le_of_lt h)

/-- `GETBYTE` of a byte that exists completes with its value on `DOUT` (R103). -/
theorem exec_getbyte_of_lt {s : State} {i : Imm} (rs1 : Reg) (h : i.toNat < byteCount s.cfg.n) :
    ∃ v, exec (.getbyte rs1 i) s = .next v ∧ v.dout.toNat = (byteOf (s.reg rs1) i.toNat).toNat :=
  ⟨_, if_neg (Nat.not_le_of_lt h), s.zext_toNat ((by decide : 8 ≤ 64).trans s.cfg.wbus_ge_native) _⟩

/-- `GETBIT` of a bit that exists completes with it on `DOUT` (R105). -/
theorem exec_getbit_of_lt {s : State} {j : Imm} (rs1 : Reg) (h : j.toNat < s.cfg.n) :
    ∃ u, exec (.getbit rs1 j) s = .next u ∧ u.dout.toNat = ((s.reg rs1).getLsbD j.toNat).toNat :=
  ⟨_, if_neg (Nat.not_le_of_lt h),
    (s.zext_toNat ((by decide : 1 ≤ 64).trans s.cfg.wbus_ge_native) _).trans (BitVec.toNat_ofBool _)⟩

/-- `GETBYTE` of the register just written shows the byte of the value written. -/
theorem exec_getbyte_setReg (s : State) (rd : Reg) (x : BitVec s.cfg.n) {i : Imm} (h : i.toNat < byteCount s.cfg.n) :
    ∃ v, exec (.getbyte rd i) (complete (s.setReg rd x)) = .next v ∧ v.dout.toNat = (byteOf x i.toNat).toNat := by
  obtain ⟨v, hv, hdout⟩ := exec_getbyte_of_lt (s := complete (s.setReg rd x)) rd h
  exact ⟨v, hv, by rw [hdout, State.reg_complete_setReg]; rfl⟩

/-- `GETBIT` of the register just written shows the bit of the value written. -/
theorem exec_getbit_setReg (s : State) (rd : Reg) (x : BitVec s.cfg.n) {j : Imm} (h : j.toNat < s.cfg.n) :
    ∃ u, exec (.getbit rd j) (complete (s.setReg rd x)) = .next u ∧ u.dout.toNat = (x.getLsbD j.toNat).toNat := by
  obtain ⟨u, hu, hdout⟩ := exec_getbit_of_lt (s := complete (s.setReg rd x)) rd h
  exact ⟨u, hu, by rw [hdout, State.reg_complete_setReg]; rfl⟩

/-! ### The byte `SETBYTE` stores -/

/-- A bit of the byte stored is that bit of `DIN`. -/
theorem State.dinByte_getLsbD_toNat (s : State) {k : Nat} (hk : k < 8) :
    (s.dinByte.getLsbD k).toNat = s.din.toNat / 2 ^ k % 2 := by
  rw [State.dinByte, BitVec.getLsbD_setWidth, decide_eq_true hk, Bool.true_and, BitVec.getLsbD, Nat.toNat_testBit]

/-- The low bits of the byte stored are those of `DIN`. -/
theorem State.dinByte_toNat_mod (s : State) {m : Nat} (hm : m ≤ 8) :
    s.dinByte.toNat % 2 ^ m = s.din.toNat % 2 ^ m := by
  rw [State.dinByte, BitVec.toNat_setWidth, Nat.mod_mod_of_dvd _ (Nat.pow_dvd_pow 2 hm)]

end Sys2Proof.Machine

open Sys2Proof Sys2Proof.Machine

/-- Settles O45: `SETBYTE` leaves the byte replaced in the register, and each read then shows the replaced byte's bits. -/
theorem storedByteIsReadBack : Obligations.StoredByteIsReadBack := by
  intro s rd i j k hk hj hlt
  have hbyte : i.toNat < byteCount s.cfg.n := by unfold byteCount; omega
  obtain ⟨u, hu, hbit⟩ := exec_getbit_setReg s rd (setByteOf (s.reg rd) i.toNat s.dinByte) hlt
  obtain ⟨v, hv, hwhole⟩ := exec_getbyte_setReg s rd (setByteOf (s.reg rd) i.toNat s.dinByte) hbyte
  refine ⟨_, u, v, exec_setbyte_of_lt rd hbyte, hu, hv, ?_, ?_⟩
  · rw [hj] at hlt
    rw [hbit, hj, setByteOf_getLsbD_byte _ _ _ hk hlt, s.dinByte_getLsbD_toNat hk]
  · rw [hwhole, byteOf_setByteOf_toNat, s.dinByte_toNat_mod (min_le_left _ _)]
end

section
/-! Encoding and decoding: each format of the opcode map accepts the words packed from its operands and no other, its mask tells the
same words, and so the decoder and the encoder are inverse to each other (spec 30_encoding.md R71 to R83, R88). -/

namespace Sys2Proof

/-! ### The fields of a word -/

/-- A register is the one a field names exactly when the field is its index. -/
theorem Reg.eq_bits_iff {b : BitVec 3} {r : Reg} : b = r.bits ↔ Reg.ofBits b = r :=
  ⟨fun h => h ▸ Reg.ofBits_bits r, fun h => h ▸ (Reg.bits_ofBits b).symm⟩

/-- An opcode given as a number. -/
theorem opField_eq_ofNat {w : CmdWord} {k : Nat} (h : (opField w).toNat = k) : opField w = BitVec.ofNat 6 k := by
  rw [← h, BitVec.ofNat_toNat, BitVec.setWidth_eq]

/-- A word is packed from given fields exactly when it has them and bit 16 is clear. -/
theorem pack_eq_iff {w : CmdWord} {op : BitVec 6} {rd rs1 rs2 : BitVec 3} {imm : Imm} :
    pack op rd rs1 rs2 imm = w ↔
      opField w = op ∧ rdField w = rd ∧ rs1Field w = rs1 ∧ rs2Field w = rs2 ∧ zField w = 0 ∧ immField w = imm := by
  constructor
  · rintro rfl
    simp
  · rintro ⟨rfl, rfl, rfl, rfl, hz, rfl⟩
    exact pack_fields hz

/-- The immediate field is a register index exactly when the thirteen bits above the index are zero (R75). -/
theorem immField_eq_rd2_iff {w : CmdWord} {r : BitVec 3} :
    immField w = 0#13 ++ r ↔ aboveRd2Field w = 0 ∧ rd2Field w = r := by
  have hr := r.isLt
  have himm : (0#13 ++ r : BitVec 16).toNat = r.toNat := by
    rw [BitVec.toNat_append, BitVec.toNat_ofNat, Nat.zero_mod, Nat.zero_shiftLeft, Nat.zero_or]
  rw [← BitVec.toNat_inj, ← BitVec.toNat_inj, ← BitVec.toNat_inj, himm, immField, aboveRd2Field, rd2Field]
  simp only [BitVec.extractLsb'_toNat, Nat.shiftRight_eq_div_pow, BitVec.ofNat_eq_ofNat, BitVec.toNat_ofNat]
  omega

/-! ### The words of a format

Which words the format's check of the must-be-zero bits accepts, and with which operands. -/

section Formats

variable {w : CmdWord} {op : BitVec 6} {i : Instr}

/-- The words format `D` accepts (R72). -/
theorem formatD_eq_ok {mk : Reg → Instr} (hop : opField w = op) :
    formatD w mk = .ok i ↔ ∃ rd, pack op rd.bits 0 0 0 = w ∧ mk rd = i := by
  simp [formatD, ifZero_eq_ok, pack_eq_iff, Reg.eq_bits_iff, hop, and_assoc]

/-- The words format `DS` accepts (R73). -/
theorem formatDS_eq_ok {mk : Reg → Reg → Instr} (hop : opField w = op) :
    formatDS w mk = .ok i ↔ ∃ rd rs1, pack op rd.bits rs1.bits 0 0 = w ∧ mk rd rs1 = i := by
  simp [formatDS, ifZero_eq_ok, pack_eq_iff, Reg.eq_bits_iff, hop, and_assoc]

/-- The words format `DSS` accepts (R74). -/
theorem formatDSS_eq_ok {mk : Reg → Reg → Reg → Instr} (hop : opField w = op) :
    formatDSS w mk = .ok i ↔ ∃ rd rs1 rs2, pack op rd.bits rs1.bits rs2.bits 0 = w ∧ mk rd rs1 rs2 = i := by
  simp [formatDSS, ifZero_eq_ok, pack_eq_iff, Reg.eq_bits_iff, hop, and_assoc]

/-- The words format `DSSD` accepts (R75). -/
theorem formatDSSD_eq_ok {mk : Reg → Reg → Reg → Reg → Instr} (hop : opField w = op) :
    formatDSSD w mk = .ok i ↔
      ∃ rd rd2 rs1 rs2, pack op rd.bits rs1.bits rs2.bits (0#13 ++ rd2.bits) = w ∧ mk rd rd2 rs1 rs2 = i := by
  simp [formatDSSD, ifZero_eq_ok, pack_eq_iff, immField_eq_rd2_iff, Reg.eq_bits_iff, hop, and_assoc]

/-- The words format `DSI` accepts (R76). -/
theorem formatDSI_eq_ok {mk : Reg → Reg → Imm → Instr} (hop : opField w = op) :
    formatDSI w mk = .ok i ↔ ∃ rd rs1 imm, pack op rd.bits rs1.bits 0 imm = w ∧ mk rd rs1 imm = i := by
  simp [formatDSI, ifZero_eq_ok, pack_eq_iff, Reg.eq_bits_iff, hop, and_assoc]

/-- The words format `DI` accepts (R77). -/
theorem formatDI_eq_ok {mk : Reg → Imm → Instr} (hop : opField w = op) :
    formatDI w mk = .ok i ↔ ∃ rd imm, pack op rd.bits 0 0 imm = w ∧ mk rd imm = i := by
  simp [formatDI, ifZero_eq_ok, pack_eq_iff, Reg.eq_bits_iff, hop, and_assoc]

/-- The words format `S` accepts (R78). -/
theorem formatS_eq_ok {mk : Reg → Instr} (hop : opField w = op) :
    formatS w mk = .ok i ↔ ∃ rs1, pack op 0 rs1.bits 0 0 = w ∧ mk rs1 = i := by
  simp [formatS, ifZero_eq_ok, pack_eq_iff, Reg.eq_bits_iff, hop, and_assoc]

/-- The words format `SI` accepts (R79). -/
theorem formatSI_eq_ok {mk : Reg → Imm → Instr} (hop : opField w = op) :
    formatSI w mk = .ok i ↔ ∃ rs1 imm, pack op 0 rs1.bits 0 imm = w ∧ mk rs1 imm = i := by
  simp [formatSI, ifZero_eq_ok, pack_eq_iff, Reg.eq_bits_iff, hop, and_assoc]

/-- The words format `SS` accepts (R80). -/
theorem formatSS_eq_ok {mk : Reg → Reg → Instr} (hop : opField w = op) :
    formatSS w mk = .ok i ↔ ∃ rs1 rs2, pack op 0 rs1.bits rs2.bits 0 = w ∧ mk rs1 rs2 = i := by
  simp [formatSS, ifZero_eq_ok, pack_eq_iff, Reg.eq_bits_iff, hop, and_assoc]

end Formats

/-! ### The words of a mask

Which words have the fixed bits of a row, by the mask of the row's format. -/

section Masks

variable {w : CmdWord} {op : BitVec 6}

/-- A field wholly under the mask stays as it is. -/
theorem and_ones3 (r : BitVec 3) : r &&& 7#3 = r := BitVec.and_allOnes

/-- The same for the immediate field. -/
theorem and_ones16 (imm : Imm) : imm &&& 0xFFFF#16 = imm := BitVec.and_allOnes

/-- A word under a mask, given field by field, is a bare opcode. -/
theorem and_mask_eq_pack_iff {m : CmdWord} (a b c : BitVec 3) (d : Imm)
    (hm : opField m = 63#6 ∧ rdField m = a ∧ rs1Field m = b ∧ rs2Field m = c ∧ zField m = 1#1 ∧ immField m = d) :
    w &&& m = pack op 0 0 0 0 ↔
      opField w = op ∧ rdField w &&& a = 0 ∧ rs1Field w &&& b = 0 ∧ rs2Field w &&& c = 0 ∧ zField w = 0 ∧
        immField w &&& d = 0 := by
  obtain ⟨hop, rfl, rfl, rfl, hz, rfl⟩ := hm
  have hopw : opField (w &&& m) = opField w :=
    BitVec.extractLsb'_and.trans ((congrArg (opField w &&& ·) hop).trans (Laws.and_ones6 _))
  have hzw : zField (w &&& m) = zField w :=
    BitVec.extractLsb'_and.trans ((congrArg (zField w &&& ·) hz).trans BitVec.and_allOnes)
  rw [eq_comm, pack_eq_iff, hopw, hzw]
  simp only [rdField, rs1Field, rs2Field, immField, BitVec.extractLsb'_and]

/-- The mask of format `DSSD` leaves the low three bits of the immediate field free. -/
theorem immField_and_eq_zero_iff : immField w &&& 0xFFF8#16 = 0 ↔ aboveRd2Field w = 0 := by
  constructor
  · intro h
    have hsplit : aboveRd2Field w = (immField w).extractLsb' 3 13 :=
      (BitVec.extractLsb'_extractLsb'_of_le (by decide)).symm
    have hones : (immField w).extractLsb' 3 13 &&& 0x1FFF#13 = (immField w).extractLsb' 3 13 := BitVec.and_allOnes
    rw [hsplit, ← hones]
    exact BitVec.extractLsb'_and.symm.trans (congrArg (BitVec.extractLsb' 3 13) h)
  · intro h
    rw [immField_eq_rd2_iff.mpr ⟨h, rfl⟩]
    exact Laws.EncodeFitsRow.low_and _

/-- The words with the fixed bits of a row of format `D` (R72). -/
theorem and_maskD_eq_iff : w &&& 0xFC7FFFFF#32 = pack op 0 0 0 0 ↔
    ∃ rd : Reg, pack op rd.bits 0 0 0 = w := by
  rw [and_mask_eq_pack_iff 0#3 7#3 7#3 0xFFFF#16 (by decide)]
  simp [pack_eq_iff, Reg.eq_bits_iff, and_ones3, and_ones16]

/-- The words with the fixed bits of a row of format `DS` (R73). -/
theorem and_maskDS_eq_iff : w &&& 0xFC0FFFFF#32 = pack op 0 0 0 0 ↔
    ∃ rd rs1 : Reg, pack op rd.bits rs1.bits 0 0 = w := by
  rw [and_mask_eq_pack_iff 0#3 0#3 7#3 0xFFFF#16 (by decide)]
  simp [pack_eq_iff, Reg.eq_bits_iff, and_ones3, and_ones16]

/-- The words with the fixed bits of a row of format `DSS` (R74). -/
theorem and_maskDSS_eq_iff : w &&& 0xFC01FFFF#32 = pack op 0 0 0 0 ↔
    ∃ rd rs1 rs2 : Reg, pack op rd.bits rs1.bits rs2.bits 0 = w := by
  rw [and_mask_eq_pack_iff 0#3 0#3 0#3 0xFFFF#16 (by decide)]
  simp [pack_eq_iff, Reg.eq_bits_iff, and_ones16]

/-- The words with the fixed bits of a row of format `DSSD` (R75). -/
theorem and_maskDSSD_eq_iff : w &&& 0xFC01FFF8#32 = pack op 0 0 0 0 ↔
    ∃ rd rd2 rs1 rs2 : Reg, pack op rd.bits rs1.bits rs2.bits (0#13 ++ rd2.bits) = w := by
  rw [and_mask_eq_pack_iff 0#3 0#3 0#3 0xFFF8#16 (by decide), immField_and_eq_zero_iff]
  simp [pack_eq_iff, immField_eq_rd2_iff, Reg.eq_bits_iff]

/-- The words with the fixed bits of a row of format `DSI` (R76). -/
theorem and_maskDSI_eq_iff : w &&& 0xFC0F0000#32 = pack op 0 0 0 0 ↔
    ∃ (rd rs1 : Reg) (imm : Imm), pack op rd.bits rs1.bits 0 imm = w := by
  rw [and_mask_eq_pack_iff 0#3 0#3 7#3 0#16 (by decide)]
  simp [pack_eq_iff, Reg.eq_bits_iff, and_ones3]

/-- The words with the fixed bits of a row of format `DI` (R77). -/
theorem and_maskDI_eq_iff : w &&& 0xFC7F0000#32 = pack op 0 0 0 0 ↔
    ∃ (rd : Reg) (imm : Imm), pack op rd.bits 0 0 imm = w := by
  rw [and_mask_eq_pack_iff 0#3 7#3 7#3 0#16 (by decide)]
  simp [pack_eq_iff, Reg.eq_bits_iff, and_ones3]

/-- The words with the fixed bits of a row of format `S` (R78). -/
theorem and_maskS_eq_iff : w &&& 0xFF8FFFFF#32 = pack op 0 0 0 0 ↔
    ∃ rs1 : Reg, pack op 0 rs1.bits 0 0 = w := by
  rw [and_mask_eq_pack_iff 7#3 0#3 7#3 0xFFFF#16 (by decide)]
  simp [pack_eq_iff, Reg.eq_bits_iff, and_ones3, and_ones16]

/-- The words with the fixed bits of a row of format `SI` (R79). -/
theorem and_maskSI_eq_iff : w &&& 0xFF8F0000#32 = pack op 0 0 0 0 ↔
    ∃ (rs1 : Reg) (imm : Imm), pack op 0 rs1.bits 0 imm = w := by
  rw [and_mask_eq_pack_iff 7#3 0#3 7#3 0#16 (by decide)]
  simp [pack_eq_iff, Reg.eq_bits_iff, and_ones3]

/-- The words with the fixed bits of a row of format `SS` (R80). -/
theorem and_maskSS_eq_iff : w &&& 0xFF81FFFF#32 = pack op 0 0 0 0 ↔
    ∃ rs1 rs2 : Reg, pack op 0 rs1.bits rs2.bits 0 = w := by
  rw [and_mask_eq_pack_iff 7#3 0#3 0#3 0xFFFF#16 (by decide)]
  simp [pack_eq_iff, Reg.eq_bits_iff, and_ones3, and_ones16]

end Masks

/-! ### Decoder and encoder -/

/-- The decoder reads back what the encoder wrote. -/
theorem decode_encode (i : Instr) : decode (encode i) = .ok i := by
  cases i with
  | clr rd | ldlow rd | ldmax rd =>
    rw [encode, decode, opField_pack]
    exact (formatD_eq_ok (opField_pack ..)).mpr ⟨rd, rfl, rfl⟩
  | mov rd rs1 | neg rd rs1 | inc rd rs1 | dec rd rs1 =>
    rw [encode, decode, opField_pack]
    exact (formatDS_eq_ok (opField_pack ..)).mpr ⟨rd, rs1, rfl, rfl⟩
  | add rd rs1 rs2 | sub rd rs1 rs2 | mul rd rs1 rs2 | div rd rs1 rs2
  | mod rd rs1 rs2 | and rd rs1 rs2 | or rd rs1 rs2 | xor rd rs1 rs2 =>
    rw [encode, decode, opField_pack]
    exact (formatDSS_eq_ok (opField_pack ..)).mpr ⟨rd, rs1, rs2, rfl, rfl⟩
  | divmod rd rd2 rs1 rs2 =>
    rw [encode, decode, opField_pack]
    exact (formatDSSD_eq_ok (opField_pack ..)).mpr ⟨rd, rd2, rs1, rs2, rfl, rfl⟩
  | sext rd rs1 imm | shl rd rs1 imm | shr rd rs1 imm =>
    rw [encode, decode, opField_pack]
    exact (formatDSI_eq_ok (opField_pack ..)).mpr ⟨rd, rs1, imm, rfl, rfl⟩
  | setbyte rd imm | setbit rd imm | castin rd imm | ldnc rd imm =>
    rw [encode, decode, opField_pack]
    exact (formatDI_eq_ok (opField_pack ..)).mpr ⟨rd, imm, rfl, rfl⟩
  | tst rs1 | fsb rs1 =>
    rw [encode, decode, opField_pack]
    exact (formatS_eq_ok (opField_pack ..)).mpr ⟨rs1, rfl, rfl⟩
  | getbyte rs1 imm | getbit rs1 imm | castout rs1 imm =>
    rw [encode, decode, opField_pack]
    exact (formatSI_eq_ok (opField_pack ..)).mpr ⟨rs1, imm, rfl, rfl⟩
  | cmp rs1 rs2 =>
    rw [encode, decode, opField_pack]
    exact (formatSS_eq_ok (opField_pack ..)).mpr ⟨rs1, rs2, rfl, rfl⟩

/-- The encoder writes back what the decoder read. The cases are the arms of the decoder, `h_1` to `h_29` in the order of the opcode
map, taken together by format; the last is the unassigned opcodes. -/
theorem encode_of_decode {w : CmdWord} {i : Instr} (h : decode w = .ok i) : encode i = w := by
  unfold decode at h
  split at h
  case h_1 hop | h_7 hop | h_8 hop =>
    obtain ⟨_, hw, rfl⟩ := (formatD_eq_ok (opField_eq_ofNat hop)).mp h
    exact hw
  case h_2 hop | h_10 hop | h_15 hop | h_16 hop =>
    obtain ⟨_, _, hw, rfl⟩ := (formatDS_eq_ok (opField_eq_ofNat hop)).mp h
    exact hw
  case h_13 hop | h_14 hop | h_17 hop | h_18 hop | h_19 hop | h_21 hop | h_22 hop | h_23 hop =>
    obtain ⟨_, _, _, hw, rfl⟩ := (formatDSS_eq_ok (opField_eq_ofNat hop)).mp h
    exact hw
  case h_20 hop =>
    obtain ⟨_, _, _, _, hw, rfl⟩ := (formatDSSD_eq_ok (opField_eq_ofNat hop)).mp h
    exact hw
  case h_11 hop | h_24 hop | h_25 hop =>
    obtain ⟨_, _, _, hw, rfl⟩ := (formatDSI_eq_ok (opField_eq_ofNat hop)).mp h
    exact hw
  case h_4 hop | h_6 hop | h_27 hop | h_29 hop =>
    obtain ⟨_, _, hw, rfl⟩ := (formatDI_eq_ok (opField_eq_ofNat hop)).mp h
    exact hw
  case h_9 hop | h_12 hop =>
    obtain ⟨_, hw, rfl⟩ := (formatS_eq_ok (opField_eq_ofNat hop)).mp h
    exact hw
  case h_3 hop | h_5 hop | h_28 hop =>
    obtain ⟨_, _, hw, rfl⟩ := (formatSI_eq_ok (opField_eq_ofNat hop)).mp h
    exact hw
  case h_26 hop =>
    obtain ⟨_, _, hw, rfl⟩ := (formatSS_eq_ok (opField_eq_ofNat hop)).mp h
    exact hw
  case h_30 => cases h

/-- The words that decode to a command are its word. -/
theorem decode_eq_ok_iff {w : CmdWord} {i : Instr} : decode w = .ok i ↔ encode i = w :=
  ⟨encode_of_decode, fun h => h ▸ decode_encode i⟩

/-- A row's match is the opcode of the row's words alone. -/
theorem rowMatch_eq_pack (i : Instr) : i.rowMatch = pack (opField (encode i)) 0 0 0 0 := by
  cases i <;> (rw [encode, opField_pack]; rfl)

/-- The word of a command has the fixed bits of its row. -/
theorem encode_and_rowMask (i : Instr) : encode i &&& i.rowMask = i.rowMatch := by
  cases i with
  | clr | ldlow | ldmax => exact Laws.EncodeFitsRow.fitsD ..
  | mov | neg | inc | dec => exact Laws.EncodeFitsRow.fitsDS ..
  | add | sub | mul | div | mod | and | or | xor => exact Laws.EncodeFitsRow.fitsDSS ..
  | divmod => exact Laws.EncodeFitsRow.fitsDSSD ..
  | sext | shl | shr => exact Laws.EncodeFitsRow.fitsDSI ..
  | setbyte | setbit | castin | ldnc => exact Laws.EncodeFitsRow.fitsDI ..
  | tst | fsb => exact Laws.EncodeFitsRow.fitsS ..
  | getbyte | getbit | castout => exact Laws.EncodeFitsRow.fitsSI ..
  | cmp => exact Laws.EncodeFitsRow.fitsSS ..

/-- A word with the fixed bits of a row is the word of a command of that row. -/
theorem exists_encode_of_and_rowMask {w : CmdWord} {i : Instr} (h : w &&& i.rowMask = i.rowMatch) :
    ∃ j, encode j = w ∧ j.rowMatch = i.rowMatch := by
  rw [rowMatch_eq_pack] at h
  cases i <;> rw [encode, opField_pack] at h
  case clr => obtain ⟨rd, hw⟩ := and_maskD_eq_iff.mp h; exact ⟨.clr rd, hw, rfl⟩
  case mov => obtain ⟨rd, rs1, hw⟩ := and_maskDS_eq_iff.mp h; exact ⟨.mov rd rs1, hw, rfl⟩
  case getbyte => obtain ⟨rs1, imm, hw⟩ := and_maskSI_eq_iff.mp h; exact ⟨.getbyte rs1 imm, hw, rfl⟩
  case setbyte => obtain ⟨rd, imm, hw⟩ := and_maskDI_eq_iff.mp h; exact ⟨.setbyte rd imm, hw, rfl⟩
  case getbit => obtain ⟨rs1, imm, hw⟩ := and_maskSI_eq_iff.mp h; exact ⟨.getbit rs1 imm, hw, rfl⟩
  case setbit => obtain ⟨rd, imm, hw⟩ := and_maskDI_eq_iff.mp h; exact ⟨.setbit rd imm, hw, rfl⟩
  case ldlow => obtain ⟨rd, hw⟩ := and_maskD_eq_iff.mp h; exact ⟨.ldlow rd, hw, rfl⟩
  case ldmax => obtain ⟨rd, hw⟩ := and_maskD_eq_iff.mp h; exact ⟨.ldmax rd, hw, rfl⟩
  case tst => obtain ⟨rs1, hw⟩ := and_maskS_eq_iff.mp h; exact ⟨.tst rs1, hw, rfl⟩
  case neg => obtain ⟨rd, rs1, hw⟩ := and_maskDS_eq_iff.mp h; exact ⟨.neg rd rs1, hw, rfl⟩
  case sext => obtain ⟨rd, rs1, imm, hw⟩ := and_maskDSI_eq_iff.mp h; exact ⟨.sext rd rs1 imm, hw, rfl⟩
  case fsb => obtain ⟨rs1, hw⟩ := and_maskS_eq_iff.mp h; exact ⟨.fsb rs1, hw, rfl⟩
  case add => obtain ⟨rd, rs1, rs2, hw⟩ := and_maskDSS_eq_iff.mp h; exact ⟨.add rd rs1 rs2, hw, rfl⟩
  case sub => obtain ⟨rd, rs1, rs2, hw⟩ := and_maskDSS_eq_iff.mp h; exact ⟨.sub rd rs1 rs2, hw, rfl⟩
  case inc => obtain ⟨rd, rs1, hw⟩ := and_maskDS_eq_iff.mp h; exact ⟨.inc rd rs1, hw, rfl⟩
  case dec => obtain ⟨rd, rs1, hw⟩ := and_maskDS_eq_iff.mp h; exact ⟨.dec rd rs1, hw, rfl⟩
  case mul => obtain ⟨rd, rs1, rs2, hw⟩ := and_maskDSS_eq_iff.mp h; exact ⟨.mul rd rs1 rs2, hw, rfl⟩
  case div => obtain ⟨rd, rs1, rs2, hw⟩ := and_maskDSS_eq_iff.mp h; exact ⟨.div rd rs1 rs2, hw, rfl⟩
  case mod => obtain ⟨rd, rs1, rs2, hw⟩ := and_maskDSS_eq_iff.mp h; exact ⟨.mod rd rs1 rs2, hw, rfl⟩
  case divmod => obtain ⟨rd, rd2, rs1, rs2, hw⟩ := and_maskDSSD_eq_iff.mp h; exact ⟨.divmod rd rd2 rs1 rs2, hw, rfl⟩
  case and => obtain ⟨rd, rs1, rs2, hw⟩ := and_maskDSS_eq_iff.mp h; exact ⟨.and rd rs1 rs2, hw, rfl⟩
  case or => obtain ⟨rd, rs1, rs2, hw⟩ := and_maskDSS_eq_iff.mp h; exact ⟨.or rd rs1 rs2, hw, rfl⟩
  case xor => obtain ⟨rd, rs1, rs2, hw⟩ := and_maskDSS_eq_iff.mp h; exact ⟨.xor rd rs1 rs2, hw, rfl⟩
  case shl => obtain ⟨rd, rs1, imm, hw⟩ := and_maskDSI_eq_iff.mp h; exact ⟨.shl rd rs1 imm, hw, rfl⟩
  case shr => obtain ⟨rd, rs1, imm, hw⟩ := and_maskDSI_eq_iff.mp h; exact ⟨.shr rd rs1 imm, hw, rfl⟩
  case cmp => obtain ⟨rs1, rs2, hw⟩ := and_maskSS_eq_iff.mp h; exact ⟨.cmp rs1 rs2, hw, rfl⟩
  case castin => obtain ⟨rd, imm, hw⟩ := and_maskDI_eq_iff.mp h; exact ⟨.castin rd imm, hw, rfl⟩
  case castout => obtain ⟨rs1, imm, hw⟩ := and_maskSI_eq_iff.mp h; exact ⟨.castout rs1 imm, hw, rfl⟩
  case ldnc => obtain ⟨rd, imm, hw⟩ := and_maskDI_eq_iff.mp h; exact ⟨.ldnc rd imm, hw, rfl⟩

/-- It decodes to a command of that row. -/
theorem decode_of_and_rowMask {w : CmdWord} {i : Instr} (h : w &&& i.rowMask = i.rowMatch) :
    ∃ j, decode w = .ok j ∧ j.rowMatch = i.rowMatch := by
  obtain ⟨j, hw, hrow⟩ := exists_encode_of_and_rowMask h
  exact ⟨j, decode_eq_ok_iff.mpr hw, hrow⟩

/-- A word that decodes has the fixed bits of its command's row. -/
theorem and_rowMask_of_decode {w : CmdWord} {i : Instr} (h : decode w = .ok i) : w &&& i.rowMask = i.rowMatch := by
  rw [← encode_of_decode h]
  exact encode_and_rowMask i

/-- No two rows share a word: the decoder answers one command. -/
theorem rowMatch_unique {w : CmdWord} {i j : Instr} (hi : w &&& i.rowMask = i.rowMatch)
    (hj : w &&& j.rowMask = j.rowMatch) : i.rowMatch = j.rowMatch := by
  obtain ⟨i', hi', hrowi⟩ := decode_of_and_rowMask hi
  obtain ⟨j', hj', hrowj⟩ := decode_of_and_rowMask hj
  have hsame : i' = j' := Except.ok.inj (hi'.symm.trans hj')
  rw [← hrowi, ← hrowj, hsame]

end Sys2Proof

namespace Sys2Proof.Machine

/-- A step whose word does not decode faults with `ILLEGAL` (R83, 60_exceptions.md R244). -/
theorem step_of_not_decode {s : State} {cmd : Command s.cfg.wbus} {rest : List (Command s.cfg.wbus)}
    (h : s.cmds = cmd :: rest) (hno : ∀ i, decode cmd.cw ≠ .ok i) :
    Faults (step s) { s with din := cmd.din, cmds := rest } 5 := by
  rw [step_cons h]
  rcases issue_cases s cmd rest with ⟨i, hi, -⟩ | ⟨_, -, hfail⟩
  · exact absurd hi (hno i)
  · rw [hfail]
    exact fail_faults .illegal (s.accept cmd rest)

end Sys2Proof.Machine

open Sys2Proof Sys2Proof.Machine

/-- Settles O3, format by format: a format's check accepts the words packed from its operands. -/
theorem decodeInvertsEncode : Obligations.DecodeInvertsEncode := decode_encode

/-- Settles O4, row by row of the decoder: a format's check accepts no other words. -/
theorem encodeInvertsDecode : Obligations.EncodeInvertsDecode := fun _ _ h => encode_of_decode h

/-- Settles O5: the words under a row's mask are the words of the row's commands, which the decoder reads back. -/
theorem decodeFollowsTheOpcodeMap : Obligations.DecodeFollowsTheOpcodeMap :=
  fun _ => ⟨fun _ h => and_rowMask_of_decode h, fun _ h => decode_of_and_rowMask h, fun _ _ hi hj => rowMatch_unique hi hj,
    fun hnone _ _ _ hcmds => step_of_not_decode hcmds fun i hi => hnone i (and_rowMask_of_decode hi)⟩

/-- Settles O2: each word is the encoder's for the command written beside it. -/
theorem exampleWordsDecode : Obligations.ExampleWordsDecode :=
  ⟨decode_encode (.clr .x3), decode_encode (.neg .x1 .x2), decode_encode (.add .x1 .x2 .x3),
    decode_encode (.divmod .x2 .x3 .x0 .x1), decode_encode (.shl .x1 .x0 3#16), decode_encode (.setbyte .x0 1#16),
    decode_encode (.tst .x5), decode_encode (.getbit .x1 16#16), decode_encode (.cmp .x1 .x2)⟩
end

section
/-! The bits of `DIN` a command uses: its effect is a function of them and of no other (spec 30_encoding.md R82). -/

namespace Sys2Proof.Machine

variable {c : Config}

/-- Two data values agree on their low `k` bits. -/
def SameLow {n : Nat} (k : Nat) (d e : BitVec n) : Prop := ∀ j, j < k → d.getLsbD j = e.getLsbD j

/-- Values that agree on their low bits have the same low part. -/
theorem SameLow.setWidth_eq {n k : Nat} {d e : BitVec n} (h : SameLow k d e) : d.setWidth k = e.setWidth k :=
  BitVec.eq_of_getLsbD_eq fun j hj => by
    rw [BitVec.getLsbD_setWidth, BitVec.getLsbD_setWidth, h j hj]

/-- Whether a command faults depends on the low bits it uses: `LDNC` alone reads them (R224). -/
theorem faultOf_congr_din {b : BitVec c.n} {d e : BitVec c.wbus} {i : Instr} (h : SameLow (dinBits i) d e) :
    faultOf c b d i = faultOf c b e i := by
  cases i with
  | ldnc rd width => rw [faultOf, faultOf, SameLow.setWidth_eq (k := width.toNat) h]
  | _ => rfl

/-- What a command does when it completes depends on the low bits it uses: four commands read them. -/
theorem action_congr_din {a b : BitVec c.n} {d e : BitVec c.wbus} {i : Instr} (h : SameLow (dinBits i) d e) :
    action c a b d i = action c a b e i := by
  cases i with
  | setbyte rd idx => rw [action, action, SameLow.setWidth_eq (k := 8) h]
  | setbit rd idx => rw [action, action, h 0 Nat.one_pos]
  | castin rd width => rw [action, action, SameLow.setWidth_eq (k := width.toNat) h]
  | ldnc rd width => rw [action, action, SameLow.setWidth_eq (k := width.toNat) h]
  | _ => rfl

/-- A command's effect depends on no bit of `DIN` but those it uses. -/
theorem effect_congr_din (x : Regs c.n) {d e : BitVec c.wbus} {i : Instr} (h : SameLow (dinBits i) d e) :
    effect c x d i = effect c x e i := by
  rw [effect, faultOf_congr_din h, action_congr_din h, effect]

end Sys2Proof.Machine

open Sys2Proof Sys2Proof.Machine

/-- Settles O55: the effect is the same, and an effect writes the architectural state without looking at `DIN`. -/
theorem unusedDataBitsAreIgnored : Obligations.UnusedDataBitsAreIgnored := by
  intro s d i h
  have hu : exec i { s with din := d } = .next (State.apply { s with din := d } (effect s.cfg s.x s.din i)) := by
    rw [exec_eq, ← effect_congr_din s.x h]
  exact ⟨_, _, exec_eq i s, hu, rfl, fun _ => rfl, rfl, rfl, rfl, rfl⟩
end

section
/-! Storage and access: what each command writes or shows when its index is inside the register, that it faults when it is not
(spec 40_storage_access.md R101 to R108), and the value a byte list builds (R109). -/

namespace Sys2Proof.Machine

/-! ### The index check -/

section IndexCheck

variable {p : Prop} [Decidable p] {s : State}

/-- An index outside the register faults, whatever the command would do. -/
theorem faults_of_index_outside (h : p) (r : Result) : Faults (if p then fail .indexOutOfRange s else r) s 2 := by
  rw [if_pos h]
  exact fail_faults .indexOutOfRange s

/-- An index inside the register lets the command write its register. -/
theorem writes_of_index_inside (h : ¬p) (rd : Reg) (v : BitVec s.cfg.n) :
    Writes (if p then fail .indexOutOfRange s else done (s.setReg rd v)) s rd v := by
  rw [if_neg h]
  exact done_setReg s rd v

/-- An index inside the register lets the command show its value. -/
theorem shows_of_index_inside (h : ¬p) (d : BitVec s.cfg.wbus) :
    Shows (if p then fail .indexOutOfRange s else done (s.setDout d)) s d := by
  rw [if_neg h]
  exact done_setDout s d

end IndexCheck

/-! ### The values shown, stored and loaded -/

/-- A byte fits the data bus, so `DOUT` shows its value. -/
theorem State.zext_byteOf_toNat (s : State) {n : Nat} (x : BitVec n) (i : Nat) :
    (s.zext (byteOf x i)).toNat = x.toNat / 2 ^ (8 * i) % 256 := by
  rw [s.zext_toNat ((by decide : 8 ≤ 64).trans s.cfg.wbus_ge_native), byteOf_toNat]

/-- A bit fits the data bus, so `DOUT` shows its value. -/
theorem State.zext_bit_toNat (s : State) {n : Nat} (x : BitVec n) (j : Nat) :
    (s.zext (BitVec.ofBool (x.getLsbD j))).toNat = x.toNat / 2 ^ j % 2 := by
  rw [s.zext_toNat ((by decide : 1 ≤ 64).trans s.cfg.wbus_ge_native), BitVec.toNat_ofBool, BitVec.getLsbD, Nat.toNat_testBit]

/-- A bit of the byte `SETBYTE` stores is that bit of `DIN`. -/
theorem State.dinByte_getLsbD (s : State) {k : Nat} (hk : k < 8) : s.dinByte.getLsbD k = s.din.getLsbD k := by
  rw [State.dinByte, BitVec.getLsbD_setWidth, decide_eq_true hk, Bool.true_and]

/-- The value with a byte replaced by `DIN[7:0]` has the bits of `DIN` in that byte and its own elsewhere (R104). -/
theorem State.setByteOf_dinByte_getLsbD (s : State) {n : Nat} (x : BitVec n) (i : Nat) {j : Nat} (hj : j < n) :
    (setByteOf x i s.dinByte).getLsbD j =
      if 8 * i ≤ j ∧ j < 8 * i + 8 then s.din.getLsbD (j - 8 * i) else x.getLsbD j := by
  rw [setByteOf_getLsbD x i _ hj]
  split
  case isTrue h => exact s.dinByte_getLsbD (by omega)
  case isFalse => rfl

/-- No value is below `lowest`. -/
theorem lowest_toInt_le {n : Nat} (x : BitVec n) : (lowest n).toInt ≤ x.toInt := BitVec.toInt_intMin_le x

/-- The signed reading of `highest` is the number of its bits, for its sign is clear. -/
theorem highest_toInt {n : Nat} (h : 1 ≤ n) : (highest n).toInt = 2 ^ (n - 1) - 1 := by
  rw [BitVec.toInt_eq_toNat_of_msb (highest_msb h), highest_toNat h, Nat.cast_sub Nat.one_le_two_pow]
  push_cast
  rfl

/-- No value is above `highest`. -/
theorem toInt_le_highest {n : Nat} (h : 1 ≤ n) (x : BitVec n) : x.toInt ≤ (highest n).toInt := by
  rw [highest_toInt h]
  exact Int.le_sub_one_of_lt BitVec.toInt_lt

/-! ### The value of a byte list -/

theorem listValue_cons (b : BitVec 8) (bytes : List (BitVec 8)) :
    listValue (b :: bytes) = b.toNat + 2 ^ 8 * listValue bytes := rfl

/-- A list's value fits its bytes. -/
theorem listValue_lt (bytes : List (BitVec 8)) : listValue bytes < 2 ^ (8 * bytes.length) := by
  induction bytes with
  | nil => decide
  | cons b bytes ih =>
    have hb := b.isLt
    rw [listValue_cons, List.length_cons, Nat.mul_succ, Nat.pow_add]
    omega

/-- One byte more stands above the bytes before it. -/
theorem listValue_append_byte (bytes : List (BitVec 8)) (b : BitVec 8) :
    listValue (bytes ++ [b]) = listValue bytes + b.toNat * 2 ^ (8 * bytes.length) := by
  induction bytes with
  | nil => simp [listValue]
  | cons c bytes ih =>
    rw [List.cons_append, listValue_cons, listValue_cons, ih, List.length_cons, Nat.mul_succ, Nat.pow_add]
    ring

/-- Storing the next byte of a list on top of the value of the bytes before it: that byte is still zero, so nothing is lost but what
the width drops. -/
theorem setByteOf_listValue {n : Nat} {x : BitVec n} {bytes : List (BitVec 8)} (hx : x.toNat = listValue bytes % 2 ^ n)
    (b : BitVec 8) : (setByteOf x bytes.length b).toNat = listValue (bytes ++ [b]) % 2 ^ n := by
  have hlt : x.toNat < 2 ^ (8 * bytes.length) := hx ▸ (Nat.mod_le _ _).trans_lt (listValue_lt bytes)
  have hzero : (byteOf x bytes.length).toNat = 0 := by rw [byteOf_toNat, Nat.div_eq_of_lt hlt]
  rw [setByteOf, hzero, Nat.zero_mul, Nat.sub_zero, BitVec.toNat_ofNat, hx, Nat.mod_add_mod, listValue_append_byte]

/-! ### The run of a byte list -/

/-- The command of one byte of the list, with its index (R109). -/
def setbyteCommand (wbus : Nat) (rd : Reg) (p : BitVec 8 × Nat) : Command wbus :=
  ⟨encode (.setbyte rd (BitVec.ofNat 16 p.2)), p.1.setWidth wbus⟩

theorem ldbytes_eq (wbus : Nat) (rd : Reg) (bytes : List (BitVec 8)) :
    ldbytes wbus rd bytes = ⟨encode (.clr rd), 0⟩ :: bytes.zipIdx.map (setbyteCommand wbus rd) := rfl

/-- The code a list of `len` bytes ends with in a block of width `n`: `IndexOutOfRange` if the last byte does not exist. -/
def listCode (n len : Nat) : BitVec 3 := if byteCount n < len then 2 else 0

/-- In the state `t` of the block `c`, `CLR rd` and one `SETBYTE` for each byte of `bytes` have run, from a state whose `STICKY`
was `old`. -/
structure BytesLoaded (c : Config) (rd : Reg) (old : BitVec 3) (bytes : List (BitVec 8)) (t : State) : Prop where
  cfg : t.cfg = c
  /-- The bytes that exist are in the register. -/
  value : (t.reg rd).toNat = listValue (bytes.take (byteCount c.n)) % 2 ^ c.n
  status : t.status = listCode c.n bytes.length
  /-- The first byte beyond the register is recorded, unless a fault was before. -/
  sticky : t.sticky = if old = 0 then listCode c.n bytes.length else old

/-- The effect of `SETBYTE` of byte `k` (R104), for an index that the immediate holds. -/
theorem effect_setbyte (c : Config) (x : Regs c.n) (rd : Reg) (b : BitVec 8) {k : Nat} (hk : k < 65536) :
    effect c x (b.setWidth c.wbus) (.setbyte rd (BitVec.ofNat 16 k)) =
      if byteCount c.n ≤ k then .fault .indexOutOfRange else .write rd (setByteOf (x.get rd) k b) := by
  have hidx : (BitVec.ofNat 16 k).toNat = k := Nat.mod_eq_of_lt hk
  have hbyte : (b.setWidth c.wbus).setWidth 8 = b := by
    rw [BitVec.setWidth_setWidth_of_le _ ((by decide : 8 ≤ 64).trans c.wbus_ge_native), BitVec.setWidth_eq]
  rw [effect, faultOf, action, hidx, hbyte]
  split
  · rfl
  · rfl

/-- The code of that effect is the code of the list up to byte `k`. -/
theorem code_setbyte (c : Config) (rd : Reg) (v : BitVec c.n) (k : Nat) :
    Effect.code (if byteCount c.n ≤ k then .fault .indexOutOfRange else .write rd v : Effect c) = listCode c.n (k + 1) := by
  rw [listCode, apply_ite Effect.code]
  exact if_congr Nat.lt_succ_iff.symm rfl rfl

/-- A list that has faulted ends with the same code after one byte more. -/
theorem listCode_succ (n k : Nat) : (if listCode n k = 0 then listCode n (k + 1) else listCode n k) = listCode n (k + 1) := by
  unfold listCode
  by_cases h : byteCount n < k
  · simp [h, Nat.lt_succ_of_lt h]
  · simp [h]

section Run

variable {c : Config} {rd : Reg} {old : BitVec 3} {bytes : List (BitVec 8)} {t : State}

/-- Accepting a command leaves what the list has built. -/
theorem BytesLoaded.accept (h : BytesLoaded c rd old bytes t) (cmd : Command t.cfg.wbus) (rest : List (Command t.cfg.wbus)) :
    BytesLoaded c rd old bytes (t.accept cmd rest) := ⟨h.cfg, h.value, h.status, h.sticky⟩

/-- The next byte: stored if it exists, else the register stays and the fault is recorded. -/
theorem BytesLoaded.apply (h : BytesLoaded c rd old bytes t) (b : BitVec 8) :
    BytesLoaded c rd old (bytes ++ [b]) (t.apply (if byteCount t.cfg.n ≤ bytes.length then .fault .indexOutOfRange
      else .write rd (setByteOf (t.reg rd) bytes.length b))) := by
  obtain ⟨rfl, hvalue, -, hsticky⟩ := h
  have hlength : (bytes ++ [b]).length = bytes.length + 1 := List.length_append
  refine ⟨rfl, ?value, ?status, ?sticky⟩
  case value =>
    by_cases hlen : byteCount t.cfg.n ≤ bytes.length
    · rw [if_pos hlen, List.take_append_of_le_length hlen]
      exact hvalue
    · rw [List.take_of_length_le (by omega)] at hvalue
      rw [if_neg hlen, List.take_of_length_le (by omega), ← setByteOf_listValue hvalue]
      exact congrArg BitVec.toNat ((Regs.get_set ..).trans (if_pos rfl))
  case status => rw [State.apply_status, code_setbyte, hlength]
  case sticky =>
    rw [State.apply_sticky, code_setbyte, hlength, hsticky]
    by_cases hold : old = 0
    · rw [if_pos hold, if_pos hold, listCode_succ]
    · rw [if_neg hold, if_neg hold]

/-- One step of the list: `SETBYTE` of its next byte. -/
theorem BytesLoaded.step (h : BytesLoaded c rd old bytes t) (hlen : bytes.length < 65536) {b : BitVec 8}
    {rest : List (BitVec 8)} (hcmds : t.cmds = ((b :: rest).zipIdx bytes.length).map (setbyteCommand t.cfg.wbus rd)) :
    ∃ u, step t = .next u ∧ BytesLoaded c rd old (bytes ++ [b]) u ∧
      u.cmds = (rest.zipIdx (bytes ++ [b]).length).map (setbyteCommand u.cfg.wbus rd) := by
  rw [List.zipIdx_cons, List.map_cons] at hcmds
  have hstep := step_of_decode hcmds (decode_encode _)
  rw [exec_eq] at hstep
  refine ⟨_, hstep, ?_, by rw [List.length_append]; rfl⟩
  exact (effect_setbyte t.cfg t.x rd b hlen).symm ▸ (h.accept _ _).apply b

/-- The rest of the list, byte by byte. -/
theorem BytesLoaded.run (h : BytesLoaded c rd old bytes t) {rest : List (BitVec 8)} (hlen : bytes.length + rest.length ≤ 65536)
    (hcmds : t.cmds = (rest.zipIdx bytes.length).map (setbyteCommand t.cfg.wbus rd)) :
    ∃ u : State, Sys2Proof.core.run rest.length t = .next u ∧ BytesLoaded c rd old (bytes ++ rest) u := by
  induction rest generalizing bytes t with
  | nil => exact ⟨t, run_zero t, by rwa [List.append_nil]⟩
  | cons b rest ih =>
    rw [List.length_cons] at hlen
    obtain ⟨u, hstep, hu, hrest⟩ := h.step (by omega) hcmds
    obtain ⟨v, hrun, hv⟩ := ih hu (by rw [List.length_append, List.length_singleton]; omega) hrest
    exact ⟨v, (run_succ hstep _).trans hrun, by rwa [List.append_assoc] at hv⟩

/-- `CLR` begins the list: no byte yet, and the value is 0 (R101). -/
theorem bytesLoaded_of_clr {s : State} (hcmds : s.cmds = ldbytes s.cfg.wbus rd bytes) :
    ∃ t, step s = .next t ∧ BytesLoaded s.cfg rd s.sticky [] t ∧
      t.cmds = bytes.zipIdx.map (setbyteCommand t.cfg.wbus rd) := by
  have hstep := step_of_decode (hcmds.trans (ldbytes_eq ..)) (decode_encode _)
  rw [exec_eq] at hstep
  refine ⟨_, hstep, ⟨rfl, ?_, rfl, rfl⟩, rfl⟩
  have hzero : (s.x.set rd 0).get rd = 0 := (Regs.get_set ..).trans (if_pos rfl)
  exact (congrArg BitVec.toNat hzero).trans (by simp [listValue])

/-- The whole list: the run leaves the value of the bytes that exist (R109). -/
theorem run_ldbytes {s : State} (hcmds : s.cmds = ldbytes s.cfg.wbus rd bytes) (hlen : bytes.length ≤ 65536) :
    ∃ t : State, Sys2Proof.core.run (bytes.length + 1) s = .next t ∧ BytesLoaded s.cfg rd s.sticky bytes t := by
  obtain ⟨u, hstep, hu, hrest⟩ := bytesLoaded_of_clr hcmds
  obtain ⟨t, hrun, ht⟩ := hu.run (by rw [List.length_nil]; omega) hrest
  exact ⟨t, (run_succ hstep _).trans hrun, ht⟩

end Run

end Sys2Proof.Machine

open Sys2Proof Sys2Proof.Machine

/-- Settles O7: both are register writes. -/
theorem clrAndMovWriteTheRegister : Obligations.ClrAndMovWriteTheRegister :=
  fun s rd rs1 => ⟨decode_encode (.clr rd), decode_encode (.mov rd rs1), done_setReg s rd _, done_setReg s rd _⟩

/-- Settles O8: the values loaded are `lowest` and `highest`, the ends of the signed order. -/
theorem ldlowAndLdmaxLoadTheExtremes : Obligations.LdlowAndLdmaxLoadTheExtremes :=
  fun s rd => ⟨decode_encode (.ldlow rd), decode_encode (.ldmax rd), lowest s.cfg.n, highest s.cfg.n,
    done_setReg s rd _, done_setReg s rd _, fun j hj => ⟨lowest_getLsbD j hj, highest_getLsbD j hj⟩,
    fun _ => ⟨lowest_toInt_le _, toInt_le_highest s.cfg.n_pos _⟩⟩

/-- Settles O9, by the index check; `byteCount` is the bound the statement writes out. -/
theorem getbyteReadsOneByte : Obligations.GetbyteReadsOneByte :=
  fun s rs1 idx => ⟨decode_encode (.getbyte rs1 idx),
    fun h => ⟨_, shows_of_index_inside (Nat.not_le_of_lt h) _, s.zext_byteOf_toNat _ _⟩,
    fun h => faults_of_index_outside h _⟩

/-- Settles O10, by the index check; bits of the byte beyond the width have no place in the value. -/
theorem setbyteReplacesOneByte : Obligations.SetbyteReplacesOneByte :=
  fun s rd idx => ⟨decode_encode (.setbyte rd idx),
    fun h => ⟨_, writes_of_index_inside (Nat.not_le_of_lt h) rd _, fun _ hj => s.setByteOf_dinByte_getLsbD _ _ hj⟩,
    fun h => faults_of_index_outside h _⟩

/-- Settles O11, by the index check. -/
theorem getbitReadsOneBit : Obligations.GetbitReadsOneBit :=
  fun s rs1 idx => ⟨decode_encode (.getbit rs1 idx),
    fun h => ⟨_, shows_of_index_inside (Nat.not_le_of_lt h) _, s.zext_bit_toNat _ _⟩,
    fun h => faults_of_index_outside h _⟩

/-- Settles O12, by the index check. -/
theorem setbitReplacesOneBit : Obligations.SetbitReplacesOneBit :=
  fun _ rd idx => ⟨decode_encode (.setbit rd idx),
    fun h => ⟨_, writes_of_index_inside (Nat.not_le_of_lt h) rd _, fun j _ => setBitOf_getLsbD _ h _ j⟩,
    fun h => faults_of_index_outside h _⟩

/-- Settles O46, by induction on the bytes still to come: after each command the bytes so far are loaded. -/
theorem byteListBuildsItsValue : Obligations.ByteListBuildsItsValue := by
  intro s rd bytes hcmds hlen
  obtain ⟨t, hrun, ⟨-, hvalue, hstatus, hsticky⟩⟩ := run_ldbytes hcmds hlen
  refine ⟨t, hrun, hvalue, fun hfits => ?_, fun hover => ?_⟩
  · have hcode : listCode s.cfg.n bytes.length = 0 := if_neg (Nat.not_lt_of_le hfits)
    rw [hstatus, hsticky, hcode]
    exact ⟨rfl, by split <;> simp [*]⟩
  · have hcode : listCode s.cfg.n bytes.length = 2 := if_pos hover
    rw [hstatus, hsticky, hcode]
    exact ⟨rfl, rfl⟩
end

section
/-! Sign and magnitude: the predicates `TST` reads off the signed value, and the index `FSB` finds and `DOUT` has room for
(spec 41_sign_magnitude.md R121 to R126). -/

namespace Sys2Proof.Machine

variable {n : Nat}

/-! ### The predicates of `TST` -/

/-- Two values are the same iff their signed readings are. -/
theorem beq_eq_decide_toInt (x y : BitVec n) : (x == y) = decide (x.toInt = y.toInt) := by
  rw [Bool.eq_iff_iff, beq_iff_eq, decide_eq_true_iff, BitVec.toInt_inj]

/-- The signed reading of `lowest`: its number less `2^N`, for its sign is set. -/
theorem lowest_toInt (h : 1 ≤ n) : (lowest n).toInt = -2 ^ (n - 1) :=
  BitVec.toInt_intMin_of_pos h

/-- What bits 3:0 of `FLAGS` tell after `TST` (R121). -/
theorem tstFlags_predicates (h : 1 ≤ n) (fl : BitVec 8) (v : BitVec n) :
    (tstFlags fl v).getLsbD 0 = v.getLsbD (n - 1) ∧ (tstFlags fl v).getLsbD 1 = !v.getLsbD (n - 1) ∧
    (tstFlags fl v).getLsbD 2 = decide (v.toInt = -2 ^ (n - 1)) ∧
    (tstFlags fl v).getLsbD 3 = decide (v.toInt = 2 ^ (n - 1) - 1) := by
  rw [← lowest_toInt h, ← highest_toInt h, ← beq_eq_decide_toInt, ← beq_eq_decide_toInt, ← BitVec.msb_eq_getLsbD_last]
  simp only [tstFlags_getLsbD]
  exact ⟨rfl, rfl, rfl, rfl⟩

/-- `TST` leaves bits 7:4 of `FLAGS` (R121). -/
theorem tstFlags_getLsbD_of_four_le (fl : BitVec 8) (v : BitVec n) {j : Nat} (h : 4 ≤ j) :
    (tstFlags fl v).getLsbD j = fl.getLsbD j := by
  rw [tstFlags_getLsbD, if_neg (by omega), if_neg (by omega), if_neg (by omega), if_neg (by omega)]

/-! ### The index of `FSB` -/

/-- A value is zero iff its unsigned reading is. -/
theorem toNat_eq_zero_iff {x : BitVec n} : x.toNat = 0 ↔ x = 0 := BitVec.toNat_inj (y := 0)

/-- The bit at the index found is set. -/
theorem getLsbD_fsbIndex {x : BitVec n} (h : x ≠ 0) : x.getLsbD (fsbIndex x) = true :=
  Nat.testBit_log2 (mt toNat_eq_zero_iff.mp h)

/-- No bit above the index found is set. -/
theorem getLsbD_of_fsbIndex_lt (x : BitVec n) {j : Nat} (h : fsbIndex x < j) : x.getLsbD j = false :=
  Nat.testBit_lt_two_pow (Nat.lt_log2_self.trans_le (Nat.pow_le_pow_right (by decide) h))

/-- The index found is inside the value. -/
theorem fsbIndex_lt {x : BitVec n} (h : x ≠ 0) : fsbIndex x < n := BitVec.lt_of_getLsbD (getLsbD_fsbIndex h)

/-- For zero `DOUT` is all ones (R124, decision D18). -/
theorem Effect.dout_find_toNat_of_zero {c : Config} {x : BitVec c.n} (h : x = 0) (old : BitVec c.wbus) :
    ((Effect.find x).dout old).toNat = 2 ^ c.wbus - 1 := by
  rw [Effect.dout, if_pos h, BitVec.toNat_allOnes]

/-- Else `DOUT` is the index found: the data bus is as wide as a register at least, so it has room for it. -/
theorem Effect.dout_find_toNat {c : Config} {x : BitVec c.n} (h : x ≠ 0) (old : BitVec c.wbus) :
    ((Effect.find x).dout old).toNat = fsbIndex x := by
  have hbus : fsbIndex x < c.wbus := (fsbIndex_lt h).trans_le c.wbus_ge_n
  rw [Effect.dout, if_neg h, BitVec.toNat_ofNat, Nat.mod_eq_of_lt (hbus.trans Nat.lt_two_pow_self)]

/-- `FSB` leaves bits 6:0 of `FLAGS` (R124). -/
theorem fsbFlags_getLsbD_of_lt_seven (fl : BitVec 8) (v : BitVec n) {j : Nat} (h : j < 7) :
    (fsbFlags fl v).getLsbD j = fl.getLsbD j := by
  rw [fsbFlags_getLsbD, if_neg h.ne]

/-- Bit 7 of `FLAGS` after `FSB`: whether no bit was found (R124). -/
theorem fsbFlags_none (fl : BitVec 8) (v : BitVec n) : (fsbFlags fl v).getLsbD 7 = (v == 0) :=
  fsbFlags_getLsbD fl v 7

end Sys2Proof.Machine

open Sys2Proof Sys2Proof.Machine

/-- Settles O13: the extremes are told apart by their signed readings. -/
theorem tstWritesTheFourPredicates : Obligations.TstWritesTheFourPredicates := by
  intro s rs1
  obtain ⟨hneg, hpos, hlow, hmax⟩ := tstFlags_predicates s.cfg.n_pos s.flags (s.reg rs1)
  exact ⟨decode_encode (.tst rs1), tstFlags s.flags (s.reg rs1), done_setFlags s _, hneg, hpos, hlow, hmax,
    fun _ hj => tstFlags_getLsbD_of_four_le _ _ hj⟩

/-- Settles O14: it is a register write. -/
theorem negWritesTheComplement : Obligations.NegWritesTheComplement :=
  fun s rd rs1 => ⟨decode_encode (.neg rd rs1), _, done_setReg s rd _, complement_toNat (s.reg rs1)⟩

/-- Settles O15, by the index check. -/
theorem sextReplicatesTheBit : Obligations.SextReplicatesTheBit :=
  fun _ rd rs1 f => ⟨decode_encode (.sext rd rs1 f),
    fun h => ⟨_, writes_of_index_inside (Nat.not_le_of_lt h) rd _, fun _ hj => signExtendFrom_getLsbD _ hj⟩,
    fun h => faults_of_index_outside h _⟩

/-- Settles O16, by the two cases of the value: zero, where no index is found, and a value with a highest 1. -/
theorem fsbFindsTheHighestBit : Obligations.FsbFindsTheHighestBit := by
  intro s rs1
  refine ⟨decode_encode (.fsb rs1), fsbFlags s.flags (s.reg rs1), (Effect.find (s.reg rs1)).dout s.dout, rfl,
    fun _ hj => fsbFlags_getLsbD_of_lt_seven _ _ hj, fun hzero => ?_, fun hne => ?_⟩
  · have hx : s.reg rs1 = 0 := toNat_eq_zero_iff.mp hzero
    exact ⟨by rw [fsbFlags_none, beq_iff_eq, hx], Effect.dout_find_toNat_of_zero hx s.dout⟩
  · have hx : s.reg rs1 ≠ 0 := mt toNat_eq_zero_iff.mpr hne
    rw [Effect.dout_find_toNat hx]
    exact ⟨by rw [fsbFlags_none, beq_eq_false_iff_ne]; exact hx, getLsbD_fsbIndex hx,
      fun _ hj => getLsbD_of_fsbIndex_lt _ hj⟩
end

section
/-! Addition and subtraction: the closed forms as numbers, the byte-wise adder, the increment and decrement that stop at the first
byte that does not wrap, and the four commands (spec 42_add_sub.md R140 to R146). -/

namespace Sys2Proof.Machine

variable {n : Nat}

/-! ### The closed forms as numbers -/

/-- The sum as a number (R141). -/
theorem addOf_toNat (a b : BitVec n) : (addOf a b).toNat = (a.toNat + b.toNat) % 2 ^ n := BitVec.toNat_add a b

/-- Adding the complement is subtracting. -/
theorem subOf_eq_sub (a b : BitVec n) : subOf a b = a - b := (BitVec.sub_eq_add_neg a b).symm

/-- The difference as a number (R143): the complement supplies a whole `2^N`, which the remainder drops. -/
theorem subOf_toNat (a b : BitVec n) : ((subOf a b).toNat : Int) = ((a.toNat : Int) - b.toNat) % 2 ^ n := by
  have hborrow : ((2 ^ n - b.toNat + a.toNat : Nat) : Int) = (a.toNat - b.toNat : Int) + 2 ^ n := by
    push_cast [Nat.cast_sub b.isLt.le]
    ring
  rw [subOf_eq_sub, BitVec.toNat_sub, Int.natCast_emod, hborrow, Nat.cast_pow]
  exact Int.add_emod_right _ _

/-- The increment as a number (R144). -/
theorem addOf_one_toNat (x : BitVec n) : (addOf x (BitVec.ofNat n 1)).toNat = (x.toNat + 1) % 2 ^ n := by
  rw [addOf_toNat, BitVec.toNat_ofNat, Nat.add_mod_mod]

/-- The decrement as a number (R145). -/
theorem subOf_one_toNat (x : BitVec n) :
    ((subOf x (BitVec.ofNat n 1)).toNat : Int) = ((x.toNat : Int) - 1) % 2 ^ n := by
  rw [subOf_toNat, BitVec.toNat_ofNat, Int.natCast_emod, Nat.cast_pow]
  exact Int.sub_emod_emod _ _ _

/-- The decrement of zero is all ones (R145, 90_conflicts.md C1). -/
theorem subOf_zero_one (n : Nat) : subOf (0 : BitVec n) (BitVec.ofNat n 1) = BitVec.allOnes n :=
  (BitVec.zero_add _).trans BitVec.neg_one_eq_allOnes

/-- Subtracting what was added gives the value back, through every wrap (R146 (a)). -/
theorem subOf_addOf_cancel (a b : BitVec n) : subOf (addOf a b) b = a := by
  rw [subOf_eq_sub]
  exact BitVec.add_sub_cancel a b

/-! ### The byte-wise adder -/

/-- The bytes of the sum so far, with the carry out of them, are the sum of the operands' bytes so far. -/
theorem fromBytes_addByte_add_carry (a b : BitVec n) (count : Nat) :
    fromBytes (addByte a b) count + addCarry a b count * 2 ^ (8 * count) =
      fromBytes (fun i => (byteOf a i).toNat) count + fromBytes (fun i => (byteOf b i).toNat) count := by
  induction count with
  | zero => rfl
  | succ count ih =>
    have hbyte : addByte a b count + 256 * addCarry a b (count + 1) =
        (byteOf a count).toNat + (byteOf b count).toNat + addCarry a b count := Nat.mod_add_div _ 256
    rw [fromBytes, fromBytes, fromBytes, Nat.mul_succ, Nat.pow_add]
    linear_combination ih + 2 ^ (8 * count) * hbyte

/-- The byte-wise adder computes the sum (R141): the carry it discards is a multiple of `2^N`. -/
theorem addBytes_eq (a b : BitVec n) : addBytes a b = addOf a b := by
  have hsum := fromBytes_addByte_add_carry a b (byteCount n)
  rw [fromBytes_byteCount, fromBytes_byteCount] at hsum
  have hcarry : 2 ^ n ∣ addCarry a b (byteCount n) * 2 ^ (8 * byteCount n) :=
    Dvd.dvd.mul_left (Nat.pow_dvd_pow 2 (le_eight_mul_byteCount n)) _
  apply BitVec.eq_of_toNat_eq
  rw [addBytes, BitVec.toNat_ofNat, addOf_toNat, ← hsum]
  exact ((Nat.modEq_zero_iff_dvd.mpr hcarry).add_left _).symm

/-! ### Increment and decrement with limited propagation -/

/-- One unit of byte `i`: the carry into it. -/
def byteUnit (n i : Nat) : BitVec n := BitVec.ofNat n (2 ^ (8 * i))

theorem byteUnit_zero (n : Nat) : byteUnit n 0 = BitVec.ofNat n 1 := rfl

/-- A byte overflows into one unit of the next. -/
theorem byteUnit_succ (n i : Nat) : byteUnit n (i + 1) = 256 * byteUnit n i := by
  rw [byteUnit, Nat.mul_succ, Nat.pow_add, Nat.mul_comm, BitVec.ofNat_mul]
  rfl

/-- There is no carry into a byte above the width. -/
theorem byteUnit_of_le {i : Nat} (h : n ≤ 8 * i) : byteUnit n i = 0 :=
  BitVec.eq_of_toNat_eq ((BitVec.toNat_ofNat _ _).trans (Nat.mod_eq_zero_of_dvd (Nat.pow_dvd_pow 2 h)))

/-- Replacing byte `i` by one that differs from it by `m - k` changes the value by `m - k` units of that byte. -/
theorem setByteOf_add (x : BitVec n) {i k m : Nat} {d : BitVec 8} (h : d.toNat + k = (byteOf x i).toNat + m) :
    setByteOf x i d + (k : BitVec n) * byteUnit n i = x + (m : BitVec n) * byteUnit n i := by
  have hbyte : (byteOf x i).toNat * 2 ^ (8 * i) ≤ x.toNat := by
    rw [byteOf_toNat]
    exact (Nat.mul_le_mul_right _ (Nat.mod_le _ _)).trans (Nat.div_mul_le_self _ _)
  have hnum : x.toNat - (byteOf x i).toNat * 2 ^ (8 * i) + d.toNat * 2 ^ (8 * i) + k * 2 ^ (8 * i) =
      x.toNat + m * 2 ^ (8 * i) := by
    have hunits := congrArg (· * 2 ^ (8 * i)) h
    simp only [Nat.add_mul] at hunits
    omega
  calc setByteOf x i d + (k : BitVec n) * byteUnit n i
    _ = BitVec.ofNat n (x.toNat - (byteOf x i).toNat * 2 ^ (8 * i) + d.toNat * 2 ^ (8 * i) + k * 2 ^ (8 * i)) := by
      rw [BitVec.ofNat_add, BitVec.ofNat_mul]; rfl
    _ = BitVec.ofNat n (x.toNat + m * 2 ^ (8 * i)) := by rw [hnum]
    _ = x + (m : BitVec n) * byteUnit n i := by
      rw [BitVec.ofNat_add, BitVec.ofNat_mul, BitVec.ofNat_toNat, BitVec.setWidth_eq]; rfl

/-- The increment from byte `i` on adds one unit of that byte, if there is fuel for the bytes left. -/
theorem incBytesFrom_eq {fuel i : Nat} (h : n ≤ 8 * (i + fuel)) (x : BitVec n) :
    incBytesFrom fuel i x = x + byteUnit n i := by
  induction fuel generalizing i x with
  | zero => rw [byteUnit_of_le (by omega), add_zero, incBytesFrom]
  | succ fuel ih =>
    rw [incBytesFrom]
    split
    next hwrap =>
      have hset := setByteOf_add x (i := i) (k := 255) (m := 0) (d := 0) (by rw [hwrap]; rfl)
      rw [ih (by omega), byteUnit_succ]
      push_cast at hset
      linear_combination hset
    next hstop =>
      have hset := setByteOf_add x (i := i) (k := 0) (m := 1) (d := byteOf x i + 1) (by bv_omega)
      push_cast at hset
      linear_combination hset

/-- The decrement from byte `i` on takes one unit of that byte away, if there is fuel for the bytes left. -/
theorem decBytesFrom_eq {fuel i : Nat} (h : n ≤ 8 * (i + fuel)) (x : BitVec n) :
    decBytesFrom fuel i x = x - byteUnit n i := by
  induction fuel generalizing i x with
  | zero => rw [byteUnit_of_le (by omega), sub_zero, decBytesFrom]
  | succ fuel ih =>
    rw [decBytesFrom]
    split
    next hwrap =>
      have hset := setByteOf_add x (i := i) (k := 0) (m := 255) (d := 0xFF#8) (by rw [hwrap]; rfl)
      rw [ih (by omega), byteUnit_succ]
      push_cast at hset
      linear_combination hset
    next hstop =>
      have hset := setByteOf_add x (i := i) (k := 1) (m := 0) (d := byteOf x i - 1) (by bv_omega)
      push_cast at hset
      linear_combination hset

/-! ### Registers between two commands -/

/-- A register not written holds the value it had. -/
theorem State.reg_complete_setReg_of_ne (s : State) {rd r : Reg} (h : r ≠ rd) (v : BitVec s.cfg.n) :
    (complete (s.setReg rd v)).reg r = s.reg r := (Regs.get_set s.x rd r v).trans (if_neg h)

end Sys2Proof.Machine

open Sys2Proof Sys2Proof.Machine

/-- Settles O19: both are register writes, of the closed forms with operand 1. -/
theorem incAndDecWrapAround : Obligations.IncAndDecWrapAround := by
  intro s rd rs1
  refine ⟨decode_encode (.inc rd rs1), decode_encode (.dec rd rs1), _, _, done_setReg s rd _, done_setReg s rd _,
    addOf_one_toNat _, subOf_one_toNat _, fun hzero j hj => ?_⟩
  rw [toNat_eq_zero_iff.mp hzero, subOf_zero_one, BitVec.getLsbD_allOnes, decide_eq_true hj]

/-- Settles O36, by the invariant of the byte loop: bytes and carry so far are the sum so far. -/
theorem byteAdderComputesTheSum : Obligations.ByteAdderComputesTheSum :=
  fun _ a b => ⟨by rw [addBytes_eq, addOf_toNat], addBytes_eq a b⟩

/-- Settles O38, by induction on the bytes left: from byte `i` on, one unit of byte `i` is added or taken away. -/
theorem limitedCarryComputesIncAndDec : Obligations.LimitedCarryComputesIncAndDec := by
  intro n x
  have hfuel : n ≤ 8 * (0 + byteCount n) := by rw [Nat.zero_add]; exact le_eight_mul_byteCount n
  rw [incBytes, incBytesFrom_eq hfuel, decBytes, decBytesFrom_eq hfuel, byteUnit_zero, subOf_eq_sub]
  exact ⟨rfl, rfl⟩

/-- Settles O44: `SUB` finds the sum in `r1` and, because `rb` is another register, the addend still in `rb`. -/
theorem addThenSubRestores : Obligations.AddThenSubRestores := by
  intro s r1 r2 ra rb hne
  refine ⟨_, _, rfl, rfl, ?_⟩
  rw [State.reg_complete_setReg, State.reg_complete_setReg, State.reg_complete_setReg_of_ne s hne.symm]
  exact congrArg BitVec.toNat (subOf_addOf_cancel (s.reg ra) (s.reg rb))

/-- Settles O17: it is a register write. -/
theorem addWritesTheSum : Obligations.AddWritesTheSum :=
  fun s rd rs1 rs2 => ⟨decode_encode (.add rd rs1 rs2), _, done_setReg s rd _, addOf_toNat _ _⟩

/-- Settles O18: it is a register write. -/
theorem subWritesTheDifference : Obligations.SubWritesTheDifference :=
  fun s rd rs1 rs2 => ⟨decode_encode (.sub rd rs1 rs2), _, done_setReg s rd _, subOf_toNat _ _⟩
end

section
/-! Multiplication: the closed form as a number in both readings, the shift-and-add loop on magnitudes, and the command (spec
43_multiply.md R160 to R164). -/

namespace Sys2Proof.Machine

variable {n : Nat}

/-! ### The closed form as a number -/

/-- The product as a number, operands read unsigned (R163). -/
theorem mulOf_toNat (a b : BitVec n) : (mulOf a b).toNat = a.toNat * b.toNat % 2 ^ n := BitVec.toNat_mul a b

/-- The product is the pattern of the product of the signed readings: taking the pattern of an integer commutes with products. -/
theorem mulOf_eq_ofInt (a b : BitVec n) : mulOf a b = BitVec.ofInt n (a.toInt * b.toInt) := by
  rw [BitVec.ofInt_mul, BitVec.ofInt_toInt, BitVec.ofInt_toInt, mulOf]

/-- The product as a number, operands read signed (R163). -/
theorem mulOf_toNat_signed (a b : BitVec n) : ((mulOf a b).toNat : Int) = a.toInt * b.toInt % 2 ^ n := by
  have hpow : (2 : Int) ^ n ≠ 0 := pow_ne_zero n two_ne_zero
  rw [mulOf_eq_ofInt, BitVec.toNat_ofInt, Nat.cast_pow]
  exact Int.toNat_of_nonneg (Int.emod_nonneg _ hpow)

/-! ### The shift-and-add loop -/

/-- After `k` bit positions the accumulator holds the product with the low `k` bits of the multiplier, and the multiplicand stands
`k` places to the left (R161 step 3). -/
theorem foldl_mulStep_range (a b : BitVec n) (k : Nat) :
    (List.range k).foldl (mulStep a) (0, b) = ((a.setWidth k).setWidth n * b, b <<< k) := by
  induction k with
  | zero =>
    have hnone : a.setWidth 0 = 0#0 := BitVec.of_length_zero
    rw [List.range_zero, List.foldl_nil, hnone, BitVec.setWidth_zero, BitVec.shiftLeft_zero]
    exact congrArg (·, b) (zero_mul b).symm
  | succ k ih =>
    have hbit : (a.setWidth (k + 1)).setWidth n =
        (a.setWidth k).setWidth n + if a.getLsbD k then BitVec.twoPow n k else 0 := by
      rw [BitVec.setWidth_setWidth_succ_eq_setWidth_setWidth_add_twoPow, BitVec.and_twoPow]
      rfl
    rw [List.range_succ, List.foldl_append, ih, hbit, BitVec.shiftLeft_add, List.foldl_cons, List.foldl_nil, mulStep]
    split
    next hset => rw [addOf, BitVec.shiftLeft_eq_mul_twoPow b k, add_mul, mul_comm b]
    next hclear => rw [add_zero]

/-- All `n` bit positions together give the whole product. -/
theorem foldl_mulStep_eq_mul (a b : BitVec n) : ((List.range n).foldl (mulStep a) (0, b)).1 = a * b := by
  rw [foldl_mulStep_range, BitVec.setWidth_eq, BitVec.setWidth_eq]

/-- A product of magnitudes takes the sign that the exclusive or of the operands' signs gives it (R161). -/
theorem sign_mag_mul_mag (a b : BitVec n) :
    (if Bool.xor a.msb b.msb then complement (mag a * mag b) else mag a * mag b) = a * b := by
  unfold mag complement
  cases a.msb <;> cases b.msb
  · rfl
  · show -(a * -b) = a * b
    rw [mul_neg, neg_neg]
  · show -(-a * b) = a * b
    rw [neg_mul, neg_neg]
  · exact neg_mul_neg a b

/-- Shift-and-add computes the product (R161, R163). -/
theorem mulShiftAdd_eq (a b : BitVec n) : mulShiftAdd a b = mulOf a b := by
  rw [mulShiftAdd, foldl_mulStep_eq_mul]
  exact sign_mag_mul_mag a b

end Sys2Proof.Machine

open Sys2Proof Sys2Proof.Machine

/-- Settles O40, by the invariant of the bit loop: the accumulator is the product with the bits used so far. -/
theorem shiftAndAddComputesTheProduct : Obligations.ShiftAndAddComputesTheProduct := by
  intro n a b
  rw [mulShiftAdd_eq]
  exact ⟨mulOf_toNat_signed a b, mulOf_toNat a b, rfl⟩

/-- Settles O20: it is a register write. -/
theorem mulWritesTheWrappedProduct : Obligations.MulWritesTheWrappedProduct :=
  fun s rd rs1 rs2 => ⟨decode_encode (.mul rd rs1 rs2), _, done_setReg s rd _, mulOf_toNat_signed _ _⟩
end

section
/-! Division: what the signed wrapper computes, read as integers; the trial-subtraction loop on magnitudes; and the three commands
(spec 44_divide.md R170 to R180). -/

namespace Sys2Proof.Machine

variable {n : Nat}

/-! ### The signed wrapper as the division that rounds toward zero -/

/-- In each of the four cases of the signs the wrapper does what the library's signed division and remainder do (R173). -/
theorem sdivmod_eq (a b : BitVec n) : sdivmod a b = (a.sdiv b, a.srem b) := by
  rw [BitVec.sdiv_eq, BitVec.srem_eq]
  unfold sdivmod mag
  cases a.msb <;> cases b.msb <;> rfl

/-- The pattern of an integer, read unsigned, is the integer modulo `2^N`. -/
theorem ofInt_toNat (n : Nat) (k : Int) : ((BitVec.ofInt n k).toNat : Int) = k % 2 ^ n := by
  have hpow : (2 : Int) ^ n ≠ 0 := pow_ne_zero n two_ne_zero
  rw [BitVec.toNat_ofInt, Nat.cast_pow]
  exact Int.toNat_of_nonneg (Int.emod_nonneg _ hpow)

/-- The quotient is the pattern of the integer quotient, also where that is not representable (R179). -/
theorem sdiv_eq_ofInt (a b : BitVec n) : a.sdiv b = BitVec.ofInt n (a.toInt.tdiv b.toInt) :=
  BitVec.eq_of_toInt_eq ((BitVec.toInt_sdiv a b).trans (BitVec.toInt_ofInt _).symm)

/-- The remainder is the pattern of the integer remainder. -/
theorem srem_eq_ofInt (a b : BitVec n) : a.srem b = BitVec.ofInt n (a.toInt.tmod b.toInt) := by
  rw [← BitVec.toInt_srem, BitVec.ofInt_toInt]

/-- The quotient as a number (R175). -/
theorem sdiv_toNat (a b : BitVec n) : ((a.sdiv b).toNat : Int) = a.toInt.tdiv b.toInt % 2 ^ n := by
  rw [sdiv_eq_ofInt, ofInt_toNat]

/-- Quotient times divisor plus remainder is the dividend, modulo `2^N` (R180 (a)): it is for the integers, and taking the pattern of
an integer commutes with sums and products. -/
theorem sdiv_mul_add_srem (a b : BitVec n) : a.sdiv b * b + a.srem b = a :=
  calc a.sdiv b * b + a.srem b
    _ = BitVec.ofInt n (a.toInt.tdiv b.toInt) * BitVec.ofInt n b.toInt + BitVec.ofInt n (a.toInt.tmod b.toInt) := by
      rw [sdiv_eq_ofInt, srem_eq_ofInt, BitVec.ofInt_toInt]
    _ = BitVec.ofInt n (a.toInt.tdiv b.toInt * b.toInt + a.toInt.tmod b.toInt) := by
      rw [BitVec.ofInt_add, BitVec.ofInt_mul]
    _ = a := by rw [Int.tdiv_mul_add_tmod, BitVec.ofInt_toInt]

/-- The remainder is zero or has the sign of the dividend (R180 (b)). -/
theorem srem_zero_or_msb (a b : BitVec n) : (a.srem b).toNat = 0 ∨ (a.srem b).msb = a.msb := by
  by_cases h : a.srem b = 0
  · exact .inl (toNat_eq_zero_iff.mpr h)
  · exact .inr (by rw [BitVec.msb_srem, decide_eq_true h, Bool.and_true])

/-- The remainder is smaller in magnitude than the divisor (R180 (c)). -/
theorem srem_natAbs_lt (a : BitVec n) {b : BitVec n} (h : b ≠ 0) : (a.srem b).toInt.natAbs < b.toInt.natAbs := by
  have hb : b.toInt ≠ 0 := fun hzero => h (BitVec.eq_of_toInt_eq (hzero.trans BitVec.toInt_zero.symm))
  rw [BitVec.toInt_srem, Int.natAbs_tmod]
  exact Nat.mod_lt _ (Int.natAbs_pos.mpr hb)

/-! ### The trial-subtraction loop -/

/-- Setting a bit that is clear adds its weight. -/
theorem setBitOf_of_clear {q : BitVec n} {i : Nat} (h : q.getLsbD i = false) :
    setBitOf q i true = q + BitVec.twoPow n i := by
  have hdisjoint : q &&& BitVec.twoPow n i = 0#n := by rw [BitVec.and_twoPow, h]; rfl
  rw [BitVec.add_eq_or_of_and_eq_zero _ _ hdisjoint, setBitOf, if_pos rfl]

/-- Setting bit `i` leaves the bits below it. -/
theorem setBitOf_getLsbD_below (q : BitVec n) {i j : Nat} (h : j < i) : (setBitOf q i true).getLsbD j = q.getLsbD j := by
  rw [setBitOf, if_pos rfl, BitVec.getLsbD_or, BitVec.getLsbD_twoPow, decide_eq_false h.ne', Bool.and_false, Bool.or_false]

section Subtraction

variable {d v r : BitVec n} {i : Nat}

/-- Taking the divisor shifted by `i` away from the remainder takes `2^i` away from the quotient still to be found. -/
theorem twoPow_add_udiv_sub (hv : v ≠ 0) (hd : d.toNat = v.toNat * 2 ^ i) (hle : d.toNat ≤ r.toNat) :
    BitVec.twoPow n i + (r - d) / v = r / v := by
  have hpos : 0 < v.toNat := Nat.pos_of_ne_zero (mt toNat_eq_zero_iff.mp hv)
  have hquot : 2 ^ i + (r.toNat - d.toNat) / v.toNat = r.toNat / v.toNat := by
    rw [hd] at hle ⊢
    rw [Nat.add_comm, ← Nat.add_mul_div_left _ _ hpos, Nat.sub_add_cancel hle]
  apply BitVec.eq_of_toNat_eq
  rw [BitVec.toNat_add, BitVec.toNat_twoPow, BitVec.toNat_udiv, BitVec.toNat_sub_of_le hle, Nat.mod_add_mod, hquot,
    ← BitVec.toNat_udiv, Nat.mod_eq_of_lt (r / v).isLt]

/-- Taking a multiple of the divisor away from the remainder leaves it what it is modulo the divisor. -/
theorem umod_sub (hd : d.toNat = v.toNat * 2 ^ i) (hle : d.toNat ≤ r.toNat) : (r - d) % v = r % v := by
  have hrem : (r.toNat - d.toNat) % v.toNat = r.toNat % v.toNat := by
    rw [hd] at hle ⊢
    exact Nat.sub_mul_mod hle
  apply BitVec.eq_of_toNat_eq
  rw [BitVec.toNat_umod, BitVec.toNat_umod, BitVec.toNat_sub_of_le hle, hrem]

end Subtraction

/-- The invariant of the loop (R172): with `count` bit positions to go, the running remainder below `v * 2^count` and the quotient's
low `count` bits still clear, the loop adds the quotient of the running remainder and leaves its remainder. The divisor it is given
stands at position `count - 1`; after the last position it has been shifted out of use. -/
theorem divLoop_eq {v : BitVec n} (hv : v ≠ 0) {count : Nat} {d q r : BitVec n} (hd : d.toNat = v.toNat * 2 ^ count / 2)
    (hr : r.toNat < v.toNat * 2 ^ count) (hq : ∀ j < count, q.getLsbD j = false) :
    divLoop count d q r = (q + r / v, r % v) := by
  induction count generalizing d q r with
  | zero =>
    have hlt : r < v := BitVec.lt_def.mpr (by simpa using hr)
    have hzero : r / v = 0 := BitVec.udiv_eq_zero_iff_eq_zero_or_lt.mpr (.inr hlt)
    rw [divLoop, hzero, BitVec.umod_eq_of_lt hlt]
    exact congrArg (·, r) (add_zero q).symm
  | succ i ih =>
    have hd' : d.toNat = v.toNat * 2 ^ i := by rw [hd, pow_succ, ← mul_assoc, Nat.mul_div_cancel _ two_pos]
    have hshift : (d >>> 1).toNat = v.toNat * 2 ^ i / 2 := by
      rw [BitVec.toNat_ushiftRight, Nat.shiftRight_eq_div_pow, hd', pow_one]
    have hclear : ∀ j < i, q.getLsbD j = false := fun j hj => hq j (Nat.lt_succ_of_lt hj)
    rw [divLoop]
    split
    next hle =>
      have hsub : (r - d).toNat < v.toNat * 2 ^ i := by
        rw [BitVec.toNat_sub_of_le hle, hd']
        rw [pow_succ, ← mul_assoc] at hr
        omega
      have hset : ∀ j < i, (setBitOf q i true).getLsbD j = false :=
        fun j hj => (setBitOf_getLsbD_below q hj).trans (hclear j hj)
      rw [ih hshift hsub hset, setBitOf_of_clear (hq i i.lt_succ_self), umod_sub hd' hle, add_assoc,
        twoPow_add_udiv_sub hv hd' hle]
    next hgt => exact ih hshift (hd' ▸ Nat.lt_of_not_le hgt) hclear

section Alignment

variable {d v : BitVec n}

/-- A dividend whose highest 1 stands below the divisor's is below the divisor. -/
theorem lt_of_fsbIndex_lt (hv : v ≠ 0) (h : fsbIndex d < fsbIndex v) : d < v :=
  BitVec.lt_def.mpr <| calc d.toNat
    _ < 2 ^ (fsbIndex d + 1) := Nat.lt_log2_self
    _ ≤ 2 ^ fsbIndex v := Nat.pow_le_pow_right two_pos h
    _ ≤ v.toNat := Nat.log2_self_le (mt toNat_eq_zero_iff.mp hv)

/-- Shifting the divisor's highest 1 under the dividend's loses no bit of it. -/
theorem shiftLeft_toNat_of_fsbIndex (hd : d ≠ 0) {k : Nat} (h : fsbIndex v + k = fsbIndex d) :
    (v <<< k).toNat = v.toNat * 2 ^ k := by
  have hfits : v.toNat * 2 ^ k < 2 ^ n := calc v.toNat * 2 ^ k
    _ < 2 ^ (fsbIndex v + 1) * 2 ^ k := Nat.mul_lt_mul_of_pos_right Nat.lt_log2_self (Nat.two_pow_pos k)
    _ = 2 ^ (fsbIndex d + 1) := by rw [← pow_add, ← h, Nat.add_right_comm]
    _ ≤ 2 ^ n := Nat.pow_le_pow_right two_pos (fsbIndex_lt hd)
  rw [BitVec.toNat_shiftLeft, Nat.shiftLeft_eq, Nat.mod_eq_of_lt hfits]

/-- The dividend is below twice the divisor so shifted. -/
theorem toNat_lt_of_fsbIndex (hv : v ≠ 0) {k : Nat} (h : fsbIndex v + k = fsbIndex d) :
    d.toNat < v.toNat * 2 ^ (k + 1) := calc d.toNat
  _ < 2 ^ (fsbIndex d + 1) := Nat.lt_log2_self
  _ = 2 ^ fsbIndex v * 2 ^ (k + 1) := by rw [← pow_add, ← h, Nat.add_assoc]
  _ ≤ v.toNat * 2 ^ (k + 1) := Nat.mul_le_mul_right _ (Nat.log2_self_le (mt toNat_eq_zero_iff.mp hv))

end Alignment

/-- Long division computes the closed form the machine uses (R172, R174). -/
theorem udivmodLong_eq (d : BitVec n) {v : BitVec n} (hv : v ≠ 0) : udivmodLong d v = udivmod d v := by
  unfold udivmodLong udivmod
  split
  next hzero => rw [hzero]; exact congrArg₂ Prod.mk BitVec.zero_udiv.symm BitVec.zero_umod.symm
  next hd =>
    simp only [fsbOf, if_neg hd, if_neg hv]
    split
    next hneg =>
      have hlt : d < v := lt_of_fsbIndex_lt hv (by omega)
      rw [BitVec.umod_eq_of_lt hlt, BitVec.udiv_eq_zero_iff_eq_zero_or_lt.mpr (.inr hlt)]
      rfl
    next hnonneg =>
      have halign : fsbIndex v + ((fsbIndex d : Int) - fsbIndex v).toNat = fsbIndex d := by omega
      generalize ((fsbIndex d : Int) - fsbIndex v).toNat = k at halign ⊢
      have hshift : (v <<< k).toNat = v.toNat * 2 ^ (k + 1) / 2 := by
        rw [shiftLeft_toNat_of_fsbIndex hd halign, pow_succ, ← mul_assoc, Nat.mul_div_cancel _ two_pos]
      have hloop := divLoop_eq hv (q := 0) hshift (toNat_lt_of_fsbIndex hv halign) fun _ _ => BitVec.getLsbD_zero
      exact hloop.trans (congrArg (·, d % v) (zero_add (d / v)))

/-! ### The three commands -/

/-- A completed write of two different registers writes them both and changes nothing else. -/
theorem done_set_set (s : State) {rd rd2 : Reg} (hne : rd ≠ rd2) (q v : BitVec s.cfg.n) :
    WritesBoth (done { s with x := (s.x.set rd q).set rd2 v }) s rd q rd2 v := by
  refine ⟨_, rfl, fun r => ?_⟩
  rw [Regs.get_set, Regs.get_set]
  by_cases hr : r = rd
  · rw [if_neg (hr ▸ hne), if_pos hr, if_pos hr]
  · rw [if_neg hr, if_neg hr]

section Commands

variable {s : State} {rs2 : Reg}

theorem writes_div (h : s.reg rs2 ≠ 0) (rd rs1 : Reg) :
    Writes (exec (.div rd rs1 rs2) s) s rd ((s.reg rs1).sdiv (s.reg rs2)) := by
  rw [exec, execDiv, if_neg h, sdivmod_eq]
  exact done_setReg s rd _

theorem writes_mod (h : s.reg rs2 ≠ 0) (rd rs1 : Reg) :
    Writes (exec (.mod rd rs1 rs2) s) s rd ((s.reg rs1).srem (s.reg rs2)) := by
  rw [exec, execMod, if_neg h, sdivmod_eq]
  exact done_setReg s rd _

theorem writesBoth_divmod (h : s.reg rs2 ≠ 0) {rd rd2 : Reg} (hne : rd ≠ rd2) (rs1 : Reg) :
    WritesBoth (exec (.divmod rd rd2 rs1 rs2) s) s rd ((s.reg rs1).sdiv (s.reg rs2)) rd2 ((s.reg rs1).srem (s.reg rs2)) := by
  rw [exec, execDivmod, if_neg hne, if_neg h, sdivmod_eq]
  exact done_set_set s hne _ _

theorem faults_div_of_zero (h : s.reg rs2 = 0) (rd rs1 : Reg) : Faults (exec (.div rd rs1 rs2) s) s 1 := by
  rw [exec, execDiv, if_pos h]
  exact fail_faults .divideByZero s

theorem faults_mod_of_zero (h : s.reg rs2 = 0) (rd rs1 : Reg) : Faults (exec (.mod rd rs1 rs2) s) s 1 := by
  rw [exec, execMod, if_pos h]
  exact fail_faults .divideByZero s

theorem faults_divmod_of_zero (h : s.reg rs2 = 0) {rd rd2 : Reg} (hne : rd ≠ rd2) (rs1 : Reg) :
    Faults (exec (.divmod rd rd2 rs1 rs2) s) s 1 := by
  rw [exec, execDivmod, if_neg hne, if_pos h]
  exact fail_faults .divideByZero s

/-- Equal destinations are refused before the divisor is looked at (R178). -/
theorem faults_divmod_of_same (s : State) {rd rd2 : Reg} (h : rd = rd2) (rs1 rs2 : Reg) :
    Faults (exec (.divmod rd rd2 rs1 rs2) s) s 5 := by
  rw [exec, execDivmod, if_pos h]
  exact fail_faults .illegal s

end Commands

end Sys2Proof.Machine

open Sys2Proof Sys2Proof.Machine

/-- Settles O41, by the invariant of the loop: quotient bits found plus the quotient of what remains is the whole quotient. -/
theorem longDivisionComputesQuotientAndRemainder : Obligations.LongDivisionComputesQuotientAndRemainder := by
  intro n d v hv
  rw [udivmodLong_eq d hv]
  exact ⟨BitVec.toNat_udiv, BitVec.toNat_umod, rfl⟩

/-- Settles O21, by the zero check: a register write or a fault. -/
theorem divWritesTheTruncatedQuotient : Obligations.DivWritesTheTruncatedQuotient :=
  fun _ rd rs1 rs2 => ⟨decode_encode (.div rd rs1 rs2),
    fun h => ⟨_, writes_div (mt toNat_eq_zero_iff.mpr h) rd rs1, sdiv_toNat _ _⟩,
    fun h => faults_div_of_zero (toNat_eq_zero_iff.mp h) rd rs1⟩

/-- Settles O22, by the zero check: a register write or a fault. -/
theorem modWritesTheDividendSignedRemainder : Obligations.ModWritesTheDividendSignedRemainder :=
  fun _ rd rs1 rs2 => ⟨decode_encode (.mod rd rs1 rs2),
    fun h => ⟨_, writes_mod (mt toNat_eq_zero_iff.mpr h) rd rs1, BitVec.toInt_srem _ _⟩,
    fun h => faults_mod_of_zero (toNat_eq_zero_iff.mp h) rd rs1⟩

/-- Settles O23, by the two checks: equal destinations first, then the divisor. -/
theorem divmodWritesBothResults : Obligations.DivmodWritesBothResults :=
  fun s rd rd2 rs1 rs2 => ⟨decode_encode (.divmod rd rd2 rs1 rs2),
    fun hne h => ⟨_, _, writesBoth_divmod (mt toNat_eq_zero_iff.mpr h) hne rs1, sdiv_toNat _ _, BitVec.toInt_srem _ _⟩,
    fun hne h => faults_divmod_of_zero (toNat_eq_zero_iff.mp h) hne rs1,
    fun heq => faults_divmod_of_same s heq rs1 rs2⟩

/-- Settles O24: the three commands write the one quotient and the one remainder, which satisfy the laws of R180. -/
theorem divisionIdentity : Obligations.DivisionIdentity := by
  intro s rd rd2 rs1 rs2 hne h
  have hy : s.reg rs2 ≠ 0 := mt toNat_eq_zero_iff.mpr h
  exact ⟨_, _, writes_div hy rd rs1, writes_mod hy rd2 rs1, writesBoth_divmod hy hne rs1,
    sdiv_mul_add_srem _ _, srem_zero_or_msb _ _, srem_natAbs_lt _ hy⟩
end

section
/-! Bitwise logic and shifts: the closed forms of the shifts as numbers and as repetitions of the one-bit shift, the arithmetic right
shift made of two commands, and the five commands (spec 45_bitwise_shift.md R191 to R197). -/

namespace Sys2Proof.Machine

variable {n : Nat}

/-! ### The closed forms as numbers -/

/-- The left shift as a number: what passes the top is dropped (R195). -/
theorem shlOf_toNat (x : BitVec n) (k : Nat) : (shlOf x k).toNat = x.toNat * 2 ^ k % 2 ^ n := by
  rw [shlOf, BitVec.toNat_shiftLeft, Nat.shiftLeft_eq]

/-- The right shift as a number (R196). -/
theorem shrOf_toNat (x : BitVec n) (k : Nat) : (shrOf x k).toNat = x.toNat / 2 ^ k := by
  rw [shrOf, BitVec.toNat_ushiftRight, Nat.shiftRight_eq_div_pow]

/-! ### The closed forms as repetitions of the one-bit shift -/

/-- A shift by a count is the repeated one-bit shift if it starts at the value itself and a count one higher is a one-bit shift
first. -/
theorem repeatShift_eq {one : BitVec n → BitVec n} {shift : BitVec n → Nat → BitVec n} (hzero : ∀ x, shift x 0 = x)
    (hsucc : ∀ x k, shift x (k + 1) = shift (one x) k) (k : Nat) (x : BitVec n) : repeatShift one k x = shift x k := by
  induction k generalizing x with
  | zero => exact (hzero x).symm
  | succ k ih => exact (ih (one x)).trans (hsucc x k).symm

/-- The one-bit left shift (R194). -/
theorem shl1_eq (x : BitVec n) : shl1 x = shlOf x 1 := by
  apply BitVec.eq_of_toNat_eq
  rw [shl1, BitVec.toNat_ofNat, shlOf_toNat, pow_one]

/-- The one-bit right shift (R194). -/
theorem shr1_eq (x : BitVec n) : shr1 x = shrOf x 1 := by
  have hfits : x.toNat / 2 < 2 ^ n := (Nat.div_le_self _ _).trans_lt x.isLt
  apply BitVec.eq_of_toNat_eq
  rw [shr1, BitVec.toNat_ofNat, Nat.mod_eq_of_lt hfits, shrOf_toNat, pow_one]

/-- A left shift by one place more is a one-bit shift first. -/
theorem shlOf_succ (x : BitVec n) (k : Nat) : shlOf x (k + 1) = shlOf (shl1 x) k := by
  rw [shl1_eq, Nat.add_comm]
  exact BitVec.shiftLeft_add x 1 k

/-- A right shift by one place more is a one-bit shift first. -/
theorem shrOf_succ (x : BitVec n) (k : Nat) : shrOf x (k + 1) = shrOf (shr1 x) k := by
  rw [shr1_eq, Nat.add_comm]
  exact BitVec.shiftRight_add x 1 k

/-- Shifting left one place at a time (R195). -/
theorem repeatShift_shl1 (k : Nat) (x : BitVec n) : repeatShift shl1 k x = shlOf x k :=
  repeatShift_eq BitVec.shiftLeft_zero shlOf_succ k x

/-- Shifting right one place at a time (R196). -/
theorem repeatShift_shr1 (k : Nat) (x : BitVec n) : repeatShift shr1 k x = shrOf x k :=
  repeatShift_eq BitVec.ushiftRight_zero shrOf_succ k x

/-! ### The arithmetic right shift -/

/-- After a logical shift right by `k` the old sign stands at bit `n - 1 - k`; extending from there fills with the sign (R197). -/
theorem signExtendFrom_shrOf (h : 1 ≤ n) (x : BitVec n) {k f : Nat} (hkf : k + f = n - 1) :
    signExtendFrom (shrOf x k) f = x.sshiftRight k := by
  apply BitVec.eq_of_getLsbD_eq
  intro j hj
  rw [signExtendFrom_getLsbD _ hj, shrOf, BitVec.getLsbD_ushiftRight, BitVec.getLsbD_sshiftRight,
    decide_eq_false (Nat.not_le_of_lt hj), Bool.not_false, Bool.true_and]
  split
  next hinside => rw [Nat.min_eq_left (by omega)]
  next hsign => rw [Nat.min_eq_right (by omega), hkf, BitVec.msb_eq_getLsbD_last]

/-- The arithmetic right shift is the floor of the signed division by `2^k`, modulo `2^N` (R197). -/
theorem sshiftRight_toNat (x : BitVec n) (k : Nat) : ((x.sshiftRight k).toNat : Int) = x.toInt / 2 ^ k % 2 ^ n := by
  rw [BitVec.sshiftRight, ofInt_toNat, Int.shiftRight_eq_div_pow, Nat.cast_pow, Nat.cast_two]

/-- The value the two commands leave (R197). -/
theorem signExtendFrom_shrOf_toNat (h : 1 ≤ n) (x : BitVec n) {k f : Nat} (hkf : k + f = n - 1) :
    ((signExtendFrom (shrOf x k) f).toNat : Int) = x.toInt / 2 ^ k % 2 ^ n := by
  rw [signExtendFrom_shrOf h x hkf, sshiftRight_toNat]

/-- `SEXT` from a bit inside the register completes with the value extended from it (R123). -/
theorem exec_sext_of_lt {s : State} {f : Imm} (h : f.toNat < s.cfg.n) (rd rs1 : Reg) :
    exec (.sext rd rs1 f) s = .next (complete (s.setReg rd (signExtendFrom (s.reg rs1) f.toNat))) :=
  if_neg (Nat.not_le_of_lt h)

end Sys2Proof.Machine

open Sys2Proof Sys2Proof.Machine

/-- Settles O26: both are register writes, of closed forms that are the repeated one-bit shifts. -/
theorem shiftsRepeatTheOneBitShift : Obligations.ShiftsRepeatTheOneBitShift :=
  fun s rd rs1 k => ⟨decode_encode (.shl rd rs1 k), decode_encode (.shr rd rs1 k), _, _, done_setReg s rd _, done_setReg s rd _,
    shlOf_toNat _ _, (repeatShift_shl1 _ _).symm, shrOf_toNat _ _, (repeatShift_shr1 _ _).symm⟩

/-- Settles O27: `SEXT` finds in `rd` what `SHR` wrote there, and the two together are the shift that keeps the sign. -/
theorem arithmeticShiftInTwoCommands : Obligations.ArithmeticShiftInTwoCommands := by
  intro s rd rs1 k f hkf
  have hpos := s.cfg.n_pos
  have hinside : f.toNat < s.cfg.n := by omega
  refine ⟨_, _, rfl, exec_sext_of_lt ?_ rd rd, ?_⟩
  · exact hinside
  · rw [State.reg_complete_setReg, State.reg_complete_setReg]
    exact signExtendFrom_shrOf_toNat hpos (s.reg rs1) hkf

/-- Settles O25: all three are register writes. -/
theorem logicActsBitByBit : Obligations.LogicActsBitByBit :=
  fun s rd rs1 rs2 => ⟨decode_encode (.and rd rs1 rs2), decode_encode (.or rd rs1 rs2), decode_encode (.xor rd rs1 rs2), _, _, _,
    done_setReg s rd _, done_setReg s rd _, done_setReg s rd _,
    fun _ _ => ⟨BitVec.getLsbD_and, BitVec.getLsbD_or, BitVec.getLsbD_xor⟩⟩
end

section
/-! Comparison: both readings of the order as `cmp`, the order of numbers digit by digit, and the command (spec 46_compare.md R211,
R212). -/

namespace Sys2Proof.Machine

variable {n : Nat}

/-! ### The closed form -/

/-- The closed form is the order of the signed readings, for the same reading is the same value (R211). -/
theorem compareOf_eq_cmp (a b : BitVec n) : compareOf a b = cmp a.toInt b.toInt := by
  rw [cmp_eq_compareOfLessAndEq]
  exact if_congr Iff.rfl rfl (if_congr BitVec.toInt_inj.symm rfl rfl)

/-! ### The bytes from the top down -/

/-- A comparison of numbers with another one to fall back on when they are the same. -/
theorem cmp_then (x y : Nat) (o : Ordering) : (cmp x y).then o = if x < y then .lt else if y < x then .gt else o := by
  rcases lt_trichotomy x y with h | h | h
  · rw [h.cmp_eq_lt, if_pos h, Ordering.lt_then]
  · rw [h.cmp_eq_eq, if_neg h.not_lt, if_neg h.not_gt, Ordering.eq_then]
  · rw [h.cmp_eq_gt, if_neg h.not_gt, if_pos h, Ordering.gt_then]

/-- Numbers compare by their leading parts first and by their remainders where those are the same. -/
theorem cmp_eq_cmp_div_then_cmp_mod (p x y : Nat) : cmp x y = (cmp (x / p) (y / p)).then (cmp (x % p) (y % p)) := by
  rcases lt_trichotomy (x / p) (y / p) with h | h | h
  · rw [h.cmp_eq_lt, Ordering.lt_then, (Nat.lt_of_div_lt_div h).cmp_eq_lt]
  · rw [h.cmp_eq_eq, Ordering.eq_then]
    calc cmp x y
      _ = cmp (p * (y / p) + x % p) (p * (y / p) + y % p) := by rw [Nat.div_add_mod, ← h, Nat.div_add_mod]
      _ = cmp (x % p) (y % p) := (strictMono_id.const_add _).cmp_map_eq _ _
  · rw [h.cmp_eq_gt, Ordering.gt_then, (Nat.lt_of_div_lt_div h).cmp_eq_gt]

/-- The byte that leads the low `i + 1` bytes of a value. -/
theorem toNat_mod_bytes_div (x : BitVec n) (i : Nat) : x.toNat % 2 ^ (8 * (i + 1)) / 2 ^ (8 * i) = (byteOf x i).toNat := by
  rw [byteOf_toNat, Nat.mul_succ, Nat.pow_add, Nat.mod_mul_right_div_self]

/-- What the low `i + 1` bytes of a value leave below the leading one. -/
theorem toNat_mod_bytes_mod (x : BitVec n) (i : Nat) :
    x.toNat % 2 ^ (8 * (i + 1)) % 2 ^ (8 * i) = x.toNat % 2 ^ (8 * i) :=
  Nat.mod_mod_of_dvd _ (Nat.pow_dvd_pow 2 (by omega))

/-- The bytes from `count - 1` down compare as the numbers they make (R211). -/
theorem compareBytesFrom_eq_cmp (a b : BitVec n) (count : Nat) :
    compareBytesFrom a b count = cmp (a.toNat % 2 ^ (8 * count)) (b.toNat % 2 ^ (8 * count)) := by
  induction count with
  | zero => rw [compareBytesFrom, Nat.mul_zero, pow_zero, Nat.mod_one, Nat.mod_one, cmp_self_eq_eq]
  | succ i ih =>
    rw [cmp_eq_cmp_div_then_cmp_mod (2 ^ (8 * i)), toNat_mod_bytes_div, toNat_mod_bytes_div, toNat_mod_bytes_mod,
      toNat_mod_bytes_mod, ← ih, cmp_then, compareBytesFrom]

/-- All the bytes compare as the unsigned readings. -/
theorem compareBytesFrom_byteCount (a b : BitVec n) : compareBytesFrom a b (byteCount n) = cmp a.toNat b.toNat := by
  rw [compareBytesFrom_eq_cmp, Nat.mod_eq_of_lt (toNat_lt_two_pow_bytes a), Nat.mod_eq_of_lt (toNat_lt_two_pow_bytes b)]

/-! ### The sign bits first -/

/-- With equal signs the signed readings are the unsigned ones, both moved by the same amount (R211). -/
theorem cmp_toInt_of_msb_eq {a b : BitVec n} (h : a.msb = b.msb) : cmp a.toInt b.toInt = cmp a.toNat b.toNat := by
  rw [BitVec.toInt_eq_msb_cond, BitVec.toInt_eq_msb_cond, h]
  split
  · exact (Nat.strictMono_cast.add_const _).cmp_map_eq _ _
  · exact Nat.strictMono_cast.cmp_map_eq _ _

/-- A negative value is below one that is not (R211). -/
theorem toInt_lt_of_msb {a b : BitVec n} (ha : a.msb = true) (hb : b.msb = false) : a.toInt < b.toInt :=
  (BitVec.toInt_neg_of_msb_true ha).trans_le (BitVec.toInt_nonneg_of_msb_false hb)

/-- The algorithm computes the signed order: by the signs where they differ, else by the bytes (R211). -/
theorem compareBytes_eq_cmp (a b : BitVec n) : compareBytes a b = cmp a.toInt b.toInt := by
  unfold compareBytes
  cases ha : a.msb <;> cases hb : b.msb
  case true.false => exact (toInt_lt_of_msb ha hb).cmp_eq_lt.symm
  case false.true => exact (toInt_lt_of_msb hb ha).cmp_eq_gt.symm
  all_goals exact (compareBytesFrom_byteCount a b).trans (cmp_toInt_of_msb_eq (ha.trans hb.symm)).symm

/-! ### The flags of `CMP` -/

/-- Whether the comparison has a given result, told by the proposition that result stands for. -/
theorem compareOf_beq {a b : BitVec n} {o : Ordering} {p : Prop} [Decidable p] (h : cmp a.toInt b.toInt = o ↔ p) :
    (compareOf a b == o) = decide p := by
  rw [compareOf_eq_cmp, Bool.eq_iff_iff, beq_iff_eq, decide_eq_true_iff, h]

/-- `CMP` leaves bits 3:0 and 7 of `FLAGS` (R212). -/
theorem cmpFlags_getLsbD_of_not_order (fl : BitVec 8) (o : Ordering) {j : Nat} (h : j < 4 ∨ j = 7) :
    (cmpFlags fl o).getLsbD j = fl.getLsbD j := by
  rw [cmpFlags_getLsbD, if_neg (by omega), if_neg (by omega), if_neg (by omega)]

end Sys2Proof.Machine

open Sys2Proof Sys2Proof.Machine

/-- Settles O42: algorithm and closed form are both the order of the signed readings. -/
theorem byteComparisonIsTheSignedOrder : Obligations.ByteComparisonIsTheSignedOrder := by
  intro n a b
  rw [compareBytes_eq_cmp, compareOf_eq_cmp]
  exact ⟨cmp_eq_lt_iff _ _, (cmp_eq_eq_iff _ _).trans BitVec.toInt_inj, cmp_eq_gt_iff _ _, rfl⟩

/-- Settles O28: a write of `FLAGS`, whose three order bits each tell one result of the comparison. -/
theorem cmpWritesTheSignedOrder : Obligations.CmpWritesTheSignedOrder :=
  fun s rs1 rs2 => ⟨decode_encode (.cmp rs1 rs2), _, done_setFlags s _,
    (cmpFlags_getLsbD _ _ 4).trans (compareOf_beq (cmp_eq_lt_iff _ _)),
    (cmpFlags_getLsbD _ _ 5).trans (compareOf_beq (cmp_eq_eq_iff _ _)),
    (cmpFlags_getLsbD _ _ 6).trans (compareOf_beq (cmp_eq_gt_iff _ _)),
    fun _ => cmpFlags_getLsbD_of_not_order _ _⟩
end

section
/-! Width casting: the cast as a number, when a cast there and back changes nothing, the byte copy, and the three commands with their
width checks (spec 47_width_cast.md R220 to R226, 30_encoding.md R84). -/

namespace Sys2Proof.Machine

variable {n w t : Nat}

/-! ### The closed form as a number -/

/-- The cast as a number: the signed reading modulo `2^T` (R221). -/
theorem castOf_toNat (t : Nat) (v : BitVec w) : ((castOf t v).toNat : Int) = v.toInt % 2 ^ t :=
  ofInt_toNat t v.toInt

/-- Widening keeps the signed reading (R225 (a)). -/
theorem castOf_toInt_of_le (h : w ≤ t) (v : BitVec w) : (castOf t v).toInt = v.toInt :=
  BitVec.toInt_signExtend_of_le h

/-- Narrowing keeps the low bits (R225 (b)). -/
theorem castOf_eq_setWidth_of_le (h : t ≤ w) (v : BitVec w) : castOf t v = v.setWidth t :=
  BitVec.signExtend_eq_setWidth_of_le v h

/-- The lowest value has its only 1 above what narrowing keeps (R225 (d)). -/
theorem castOf_lowest_of_lt (h : t < w) : (castOf t (lowest w)).toNat = 0 := by
  rw [castOf_eq_setWidth_of_le h.le, BitVec.toNat_setWidth, lowest_toNat (by omega)]
  exact Nat.mod_eq_zero_of_dvd (Nat.pow_dvd_pow 2 (by omega))

/-- The signed reading of the low `w` bits, written out. -/
theorem setWidth_toInt {m : Nat} (x : BitVec m) (h : 1 ≤ w) : (x.setWidth w).toInt =
    if x.getLsbD (w - 1) then ((x.toNat % 2 ^ w : Nat) : Int) - 2 ^ w else ((x.toNat % 2 ^ w : Nat) : Int) := by
  rw [BitVec.toInt_eq_msb_cond, BitVec.msb_setWidth, decide_eq_true (show 0 < w from h), Bool.true_and, BitVec.toNat_setWidth,
    Nat.cast_pow, Nat.cast_two]

/-- What `DOUT` shows of a value that fits the data bus reads back as the value. -/
theorem State.setWidth_zext (s : State) (h : w ≤ s.cfg.wbus) (v : BitVec w) : (s.zext v).setWidth w = v := by
  rw [State.zext, BitVec.setWidth_setWidth_of_le _ h, BitVec.setWidth_eq]

/-! ### Casting there and back -/

/-- A cast keeps the signed reading exactly when the reading fits the new width. -/
theorem castOf_toInt_eq_iff (h : 1 ≤ n) (d : BitVec w) :
    (castOf n d).toInt = d.toInt ↔ -2 ^ (n - 1) ≤ d.toInt ∧ d.toInt ≤ 2 ^ (n - 1) - 1 := by
  constructor
  · intro hkeep
    rw [← hkeep]
    exact ⟨BitVec.le_toInt _, Int.le_sub_one_of_lt BitVec.toInt_lt⟩
  · rintro ⟨hlow, hhigh⟩
    exact BitVec.toInt_ofInt_eq_self h hlow (Int.lt_of_le_sub_one hhigh)

/-- A cast to another width and back is the identity exactly when the way there keeps the signed reading. -/
theorem castOf_castOf_eq_self_iff (d : BitVec w) : castOf w (castOf n d) = d ↔ (castOf n d).toInt = d.toInt := by
  constructor
  · intro hback
    rcases Nat.le_total w n with hwide | hnarrow
    · exact castOf_toInt_of_le hwide d
    · rw [← castOf_toInt_of_le hnarrow, hback]
  · intro hkeep
    calc castOf w (castOf n d)
      _ = BitVec.ofInt w (castOf n d).toInt := rfl
      _ = d := by rw [hkeep, BitVec.ofInt_toInt]

/-- Widening and narrowing back is the identity (R225 (c)). -/
theorem castOf_castOf_of_le (h : w ≤ t) (v : BitVec w) : castOf w (castOf t v) = v :=
  (castOf_castOf_eq_self_iff v).mpr (castOf_toInt_of_le h v)

/-! ### The byte copy -/

/-- The bytes copied are the low bits of the value, zeros above it (R221). -/
theorem copiedBytes_eq_setWidth (t : Nat) (v : BitVec w) :
    BitVec.ofNat t (fromBytes (fun i => (byteOf v i).toNat) (min (byteCount w) (byteCount t))) = v.setWidth t := by
  apply BitVec.eq_of_toNat_eq
  rw [BitVec.toNat_ofNat, BitVec.toNat_setWidth]
  rcases Nat.le_total (byteCount w) (byteCount t) with h | h
  · rw [Nat.min_eq_left h, fromBytes_byteCount]
  · rw [Nat.min_eq_right h, fromBytes_byteOf, Nat.mod_mod_of_dvd _ (Nat.pow_dvd_pow 2 (le_eight_mul_byteCount t))]

/-- Extending the copied bits from bit `S-1` is extending the value by its sign (R221). -/
theorem signExtendFrom_setWidth (h : 1 ≤ w) (v : BitVec w) : signExtendFrom (v.setWidth t) (w - 1) = castOf t v := by
  apply BitVec.eq_of_getLsbD_eq
  intro j hj
  rw [signExtendFrom_getLsbD _ hj, castOf, BitVec.getLsbD_signExtend, BitVec.getLsbD_setWidth, decide_eq_true hj,
    decide_eq_true (show min j (w - 1) < t by omega), Bool.true_and, Bool.true_and]
  split
  next hinside => rw [Nat.min_eq_left (by omega)]
  next habove => rw [Nat.min_eq_right (by omega), BitVec.msb_eq_getLsbD_last]

/-- Copying the bytes, extending the sign and truncating is the closed form (R221). -/
theorem castBytes_eq (h : 1 ≤ w) (v : BitVec w) : castBytes t v = castOf t v := by
  simp only [castBytes, copiedBytes_eq_setWidth]
  split
  next hwide => exact signExtendFrom_setWidth h v
  next hnarrow => exact (castOf_eq_setWidth_of_le (Nat.le_of_not_lt hnarrow) v).symm

section Commands

variable {s : State} {width : Imm}

/-! ### The commands with a cast width -/

/-- A check that fails takes its fault, whatever the command would do. -/
theorem faults_of_check {p : Prop} [Decidable p] (h : p) (k : Kind) (r : Result) :
    Faults (if p then fail k s else r) s k.code := by
  rw [if_pos h]
  exact fail_faults k s

/-- `CASTIN` with a legal width completes with the low bits of `DIN` cast to the register (R222). -/
theorem exec_castin_of_legal (hpos : 1 ≤ width.toNat) (hle : width.toNat ≤ s.cfg.wbus) (rd : Reg) :
    exec (.castin rd width) s = .next (complete (s.setReg rd (castOf s.cfg.n (s.dinLow width.toNat)))) :=
  if_neg (by omega)

/-- `CASTOUT` with a legal width completes with the register cast to that width on `DOUT` (R223). -/
theorem exec_castout_of_legal (hpos : 1 ≤ width.toNat) (hle : width.toNat ≤ s.cfg.wbus) (rs1 : Reg) :
    exec (.castout rs1 width) s = .next (complete (s.setDout (s.zext (castOf width.toNat (s.reg rs1))))) :=
  if_neg (by omega)

/-! ### The native load -/

theorem mem_nativeWidths_iff {m : Nat} : m ∈ [8, 16, 32, 64] ↔ m = 8 ∨ m = 16 ∨ m = 32 ∨ m = 64 := by
  simp only [List.mem_cons, List.not_mem_nil, or_false]

theorem one_le_of_nativeWidth : ∀ m ∈ [8, 16, 32, 64], 1 ≤ m := by decide

theorem fitsSigned_iff {k : Int} : fitsSigned n k = true ↔ -2 ^ (n - 1) ≤ k ∧ k ≤ 2 ^ (n - 1) - 1 := by
  rw [fitsSigned, Bool.and_eq_true, decide_eq_true_iff, decide_eq_true_iff]

/-- A width that is not native is refused before the data is looked at (R224, R247). -/
theorem faults_ldnc_of_not_native (h : width.toNat ∉ [8, 16, 32, 64]) (rd : Reg) : Faults (exec (.ldnc rd width) s) s 5 :=
  faults_of_check (mt mem_nativeWidths_iff.mpr h) .illegal _

/-- `LDNC` of a value that fits writes its cast (R224). -/
theorem writes_ldnc (h : width.toNat ∈ [8, 16, 32, 64]) (hfits : fitsSigned s.cfg.n (s.dinLow width.toNat).toInt = true)
    (rd : Reg) : Writes (exec (.ldnc rd width) s) s rd (castOf s.cfg.n (s.dinLow width.toNat)) := by
  rw [exec, execLdnc, if_neg (not_not_intro (mem_nativeWidths_iff.mp h)), if_pos hfits]
  exact done_setReg s rd _

/-- `LDNC` of a value that does not fit faults (R224, R243). -/
theorem faults_ldnc_of_overflow (h : width.toNat ∈ [8, 16, 32, 64])
    (hover : ¬fitsSigned s.cfg.n (s.dinLow width.toNat).toInt = true) (rd : Reg) :
    Faults (exec (.ldnc rd width) s) s 3 := by
  rw [exec, execLdnc, if_neg (not_not_intro (mem_nativeWidths_iff.mp h)), if_neg hover]
  exact fail_faults .narrowingOverflow s

end Commands

end Sys2Proof.Machine

open Sys2Proof Sys2Proof.Machine

/-- Settles O43: the copy is the low bits, and extending them from bit `S-1` is the cast. -/
theorem byteCastIsTheTruncatedSignedReading : Obligations.ByteCastIsTheTruncatedSignedReading :=
  fun _ t v hw _ => ⟨by rw [castBytes_eq hw, castOf_toNat], castBytes_eq hw v⟩

/-- Settles O32, by the two directions: widening keeps the signed reading, narrowing the low bits. -/
theorem castLaws : Obligations.CastLaws := by
  intro w t v hw _
  refine ⟨fun hwide => ⟨castOf_toInt_of_le hwide v, castOf_castOf_of_le hwide v, ?_⟩,
    fun hnarrow => ⟨?_, castOf_lowest_of_lt hnarrow⟩⟩
  · rw [castOf_toInt_of_le hwide, lowest_toInt hw]
  · rw [castOf_eq_setWidth_of_le hnarrow.le, BitVec.toNat_setWidth]

/-- Settles O29, by the width check: a register write or a fault. -/
theorem castinLoadsTheTruncatedSignedValue : Obligations.CastinLoadsTheTruncatedSignedValue := by
  intro s rd width
  refine ⟨decode_encode (.castin rd width), fun hpos hle => ⟨castOf s.cfg.n (s.dinLow width.toNat), ?_, ?_⟩,
    fun hbad => faults_of_check hbad .illegal _⟩
  · rw [exec_castin_of_legal hpos hle]
    exact done_setReg s rd _
  · rw [castOf_toNat, State.dinLow, setWidth_toInt s.din hpos]

/-- Settles O30, by the width check: a write of `DOUT`, which has room for the cast, or a fault. -/
theorem castoutShowsTheTruncatedSignedValue : Obligations.CastoutShowsTheTruncatedSignedValue := by
  intro s rs1 width
  refine ⟨decode_encode (.castout rs1 width),
    fun hpos hle => ⟨s.zext (castOf width.toNat (s.reg rs1)), exec_castout_of_legal hpos hle rs1, ?_⟩,
    fun hbad => faults_of_check hbad .illegal _⟩
  rw [s.zext_toNat hle, castOf_toNat]

/-- Settles O31, by the two checks: the width first, then whether the register holds the value, which it does exactly when the cast
keeps it. -/
theorem ldncLoadsOnlyWhatFits : Obligations.LdncLoadsOnlyWhatFits := by
  intro s rd width
  refine ⟨decode_encode (.ldnc rd width), fun hnative k hk => ?_, fun hbad => faults_ldnc_of_not_native hbad rd⟩
  rw [← setWidth_toInt s.din (one_le_of_nativeWidth _ hnative)] at hk
  subst hk
  have hkeeps := castOf_toInt_eq_iff s.cfg.n_pos (s.dinLow width.toNat)
  refine ⟨fun hfits => ⟨_, writes_ldnc hnative (fitsSigned_iff.mpr hfits) rd, hkeeps.mpr hfits⟩, fun hover => ?_,
    (castOf_castOf_eq_self_iff _).trans hkeeps⟩
  refine faults_ldnc_of_overflow hnative (fun hfits => ?_) rd
  obtain ⟨hlow, hhigh⟩ := fitsSigned_iff.mp hfits
  exact hover.elim (not_lt_of_ge hlow) (not_lt_of_ge hhigh)

/-- Settles O33: `CASTIN` reads back from `DIN` the very cast that `CASTOUT` showed, and narrowing undoes widening. -/
theorem castOutThenInReturnsTheValue : Obligations.CastOutThenInReturnsTheValue := by
  intro s rd rs1 width hn hle
  have hpos : 1 ≤ width.toNat := s.cfg.n_pos.trans hn
  refine ⟨_, _, exec_castout_of_legal hpos hle rs1, exec_castin_of_legal hpos ?_ rd, ?_⟩
  · exact hle
  · rw [State.reg_complete_setReg]
    have hdata := s.setWidth_zext hle (castOf width.toNat (s.reg rs1))
    exact congrArg BitVec.toNat ((congrArg (castOf s.cfg.n) hdata).trans (castOf_castOf_of_le hn (s.reg rs1)))
end

section
/-! Faults: which effects are `ILLEGAL`, and what a fault leaves unchanged (spec 60_exceptions.md R240 to R248, 30_encoding.md R84). -/

namespace Sys2Proof.Machine

variable {c : Config}

/-! ### The checks of R84 -/

/-- The width check of the casts, as their meanings make it (R84 (b)). -/
theorem castWidthLegal_eq_false_iff {wbus : Nat} {width : Imm} :
    castWidthLegal wbus width = false ↔ width.toNat = 0 ∨ wbus < width.toNat := by
  rw [castWidthLegal, Bool.and_eq_false_iff, decide_eq_false_iff_not, decide_eq_false_iff_not]
  omega

/-- The width check of the native load, as its meaning makes it (R84 (c)). -/
theorem nativeWidth_eq_false_iff {width : Imm} :
    nativeWidth width = false ↔ ¬(width.toNat = 8 ∨ width.toNat = 16 ∨ width.toNat = 32 ∨ width.toNat = 64) := by
  rw [← Bool.not_eq_true, nativeWidth]
  simp only [Bool.or_eq_true, beq_iff_eq, ← BitVec.toNat_inj, BitVec.toNat_ofNat, or_assoc]

/-- A check that takes `ILLEGAL` and no other fault. -/
theorem check_eq_illegal_iff {p : Prop} [Decidable p] :
    (if p then some Kind.illegal else none) = some .illegal ↔ p :=
  Option.ite_some_none_eq_some.trans (and_iff_left rfl)

/-- The reason for a fault is `ILLEGAL` exactly when the command fails its check of R84, whatever operand and `DIN` hold (R244). -/
theorem faultOf_eq_illegal_iff {b : BitVec c.n} {din : BitVec c.wbus} {i : Instr} :
    faultOf c b din i = some .illegal ↔ i.wellFormed c.wbus = false := by
  cases i with
  | getbyte | setbyte | getbit | setbit | sext | div | mod => simp [faultOf, Instr.wellFormed]
  | divmod rd rd2 rs1 rs2 =>
    by_cases hsame : rd = rd2
    · simp [faultOf, Instr.wellFormed, hsame]
    · simp [faultOf, Instr.wellFormed, hsame]
  | castin rd width => exact check_eq_illegal_iff.trans castWidthLegal_eq_false_iff.symm
  | castout rs1 width => exact check_eq_illegal_iff.trans castWidthLegal_eq_false_iff.symm
  | ldnc rd width =>
    rw [faultOf, Instr.wellFormed, nativeWidth_eq_false_iff]
    split
    next hbad => exact iff_of_true rfl hbad
    next hnative => exact iff_of_false (by simp) hnative
  | _ => simp [faultOf, Instr.wellFormed]

/-! ### The code of an effect -/

/-- No other kind of fault has the code of `ILLEGAL` (R240). -/
theorem Kind.eq_illegal_of_code {k : Kind} (h : k.code = 5) : k = .illegal := by
  cases k with
  | illegal => rfl
  | _ => exact absurd h (by decide)

/-- A command that passes its checks completes. -/
theorem action_code (a b : BitVec c.n) (din : BitVec c.wbus) (i : Instr) : (action c a b din i).code = 0 := by
  cases i <;> rfl

/-- A command that fails its check of R84 has the effect of `ILLEGAL` and no other. -/
theorem effect_of_not_wellFormed {i : Instr} (h : i.wellFormed c.wbus = false) (x : Regs c.n) (din : BitVec c.wbus) :
    effect c x din i = .fault .illegal := by
  rw [effect, faultOf_eq_illegal_iff.mpr h]
  rfl

/-- A command that passes it never ends with the code of `ILLEGAL`. -/
theorem effect_code_ne_of_wellFormed {i : Instr} (h : i.wellFormed c.wbus = true) (x : Regs c.n) (din : BitVec c.wbus) :
    (effect c x din i).code ≠ 5 := by
  rw [effect]
  cases hfault : faultOf c (operand x i 1) din i with
  | none =>
    rw [Effect.guarded, Option.elim, action_code]
    decide
  | some k =>
    intro hcode
    rw [Kind.eq_illegal_of_code hcode, faultOf_eq_illegal_iff, h] at hfault
    exact absurd hfault (by decide)

/-! ### What a fault leaves unchanged -/

/-- An effect that ends with a code is a fault: it changes `STATUS` and `STICKY` and nothing else (R248). -/
theorem apply_of_code_ne_zero {s : State} {e : Effect s.cfg} (h : e.code ≠ 0) :
    s.apply e = { s with status := e.code, sticky := if s.sticky = 0 then e.code else s.sticky } := by
  cases e with
  | fault k => rfl
  | _ => exact absurd rfl h

end Sys2Proof.Machine

open Sys2Proof Sys2Proof.Machine

/-- Settles O6: the word decides whether the effect is `ILLEGAL`, by the decoder and by the checks of R84. -/
theorem illegalExactlyForMalformedWords : Obligations.IllegalExactlyForMalformedWords := by
  intro s cmd rest hcmds
  refine ⟨fun hbad => ?_, fun i hi hwf => ?_⟩
  · cases hdecode : decode cmd.cw with
    | ok i =>
      rw [step_of_decode hcmds hdecode, exec_eq, effect_of_not_wellFormed]
      · exact fail_faults .illegal (s.accept cmd rest)
      · exact hbad i hdecode
    | error e =>
      refine step_of_not_decode hcmds fun i hi => ?_
      rw [hdecode] at hi
      cases hi
  · refine ⟨_, (step_of_decode hcmds hi).trans (exec_eq i _), ?_⟩
    exact effect_code_ne_of_wellFormed hwf s.x cmd.din

/-- Settles O50: a step applies an effect to the accepted state, and an effect with a code is a fault. -/
theorem faultChangesOnlyStatusAndSticky : Obligations.FaultChangesOnlyStatusAndSticky := by
  intro s t cmd rest hcmds hstep hcode
  rcases step_cases hstep with ⟨hnil, -⟩ | ⟨cmd', rest', e, hcons, -, rfl⟩
  · rw [hcmds] at hnil
    cases hnil
  · rw [hcmds] at hcons
    obtain ⟨rfl, rfl⟩ := List.cons.inj hcons
    exact apply_of_code_ne_zero (s := { s with din := cmd.din, cmds := rest }) hcode
end
